-- ==== Sys2Proof/Word.lean ====
section
/-! DEFINITION. The word types of the block (spec/00_scope.md R7) and the three-byte snapshot type. -/

namespace Sys2Proof

/-- A `u8`: a raw byte, a segment pattern or a time field. -/
abbrev Byte := BitVec 8

/-- One hexadecimal digit of a frame. -/
abbrev Nibble := BitVec 4

/-- A `u24`: a frame, bit 0 being the first bit received (R40). -/
abbrev Frame := BitVec 24

/-- The bits of an `i32`, two's complement (R7, D3). -/
abbrev I32 := BitVec 32

/-- The 64-bit response `resp` (R54). -/
abbrev Resp := BitVec 64

/-- A 36-bit command word `CMD36` (R52). -/
abbrev CmdWord := BitVec 36

/-- `raw_bytes[0..2]`, byte 0 holding frame bits 7 to 0 (R15, R29). -/
structure RawBytes where
  b0 : Byte
  b1 : Byte
  b2 : Byte
deriving DecidableEq, Repr, Inhabited

end Sys2Proof
end

