-- ==== Sys2Proof/Syntax.lean ====
section
/-! DEFINITION. The fourteen operations (spec/30_encoding.md R55) with their operands (R53), the agents that issue them
(spec/60_exceptions.md R95) and the events the outside presents to the block. -/

namespace Sys2Proof

/-- The operations, one constructor per row of the opcode table. Every value of every operand is legal (R56 e). -/
inductive Instr where
  /-- CAP_RESET, `reset()` (R59) -/
  | capReset
  /-- CAP_BIT, `process_bit(bit)` (R60) -/
  | capBit (bit : Bool)
  /-- CAP_READY, `frame_ready()` (R61) -/
  | capReady
  /-- CAP_RAW, `raw_bytes()` (R62) -/
  | capRaw
  /-- DECODE, `decode(raw_bytes)` (R66) -/
  | decode (b0 b1 b2 : Byte)
  /-- DISP_INIT, `init()` (R71) -/
  | dispInit
  /-- SET_NUMBER, `set_number(value)` (R72) -/
  | setNumber (value : I32)
  /-- SET_TIME, `set_time(hours, minutes, seconds)` (R73) -/
  | setTime (hours minutes seconds : Byte)
  /-- SHOW_UM, `show_micrometres(value_um)` (R74) -/
  | showUm (valueUm : I32)
  /-- SHOW_HEX, `show_raw_hex(raw_bytes)` (R75) -/
  | showHex (b0 b1 b2 : Byte)
  /-- REFRESH, `refresh_if_needed()` (R76) -/
  | refresh
  /-- GET_FRONT, `get_front_buffer()` (R77) -/
  | getFront
  /-- NEEDS_UPDATE, `needs_update()` (R78) -/
  | needsUpdate
  /-- MUX_TICK (R84, decided by the spec) -/
  | muxTick
deriving DecidableEq, Repr

/-- The external contexts that issue operations (R95). The block does not tell them apart (R94). -/
inductive Agent where
  | bit | main | tmo | xport
deriving DecidableEq, Repr

/-- What the outside can present to the block: one operation as a command word (R52), or the hardware reset input (R101). -/
inductive Event where
  | command (agent : Agent) (word : CmdWord)
  | hardwareReset
deriving DecidableEq, Repr

/-- The pseudo-operations of R58. -/
inductive Pseudo where
  | feed24 (frame : Frame)
  | decodeCaptured
  | showCapturedHex
  | showMeasurement
deriving DecidableEq, Repr

end Sys2Proof
end

