-- ==== Sys2Proof/WellFormed.lean ====
section
/-! DEFINITION. Which command words select an operation (spec/30_encoding.md R55, R56), which ARG bits each takes (R53),
and the well-formed operations. -/

namespace Sys2Proof

/-- Every operand value of every operation is legal (R56 e): the operand types already are the legal ranges, so no term of
`Instr` is ill-formed; what can be ill-formed is a command word (`CmdWord.selects`, `CmdWord.canonical`). -/
def Instr.wellFormed : Instr → Bool
  | .capReset => true
  | .capBit _ => true
  | .capReady => true
  | .capRaw => true
  | .decode _ _ _ => true
  | .dispInit => true
  | .setNumber _ => true
  | .setTime _ _ _ => true
  | .showUm _ => true
  | .showHex _ _ _ => true
  | .refresh => true
  | .getFront => true
  | .needsUpdate => true
  | .muxTick => true

/-- The ARG bits an operation takes, by its code (R53): the others are ignored. -/
def usedArgBits (opc : BitVec 4) : BitVec 32 :=
  match opc.toNat with
  | 0x1 => 0x00000001
  | 0x4 => 0x00FFFFFF
  | 0x6 => 0xFFFFFFFF
  | 0x7 => 0x00FFFFFF
  | 0x8 => 0xFFFFFFFF
  | 0x9 => 0x00FFFFFF
  | _ => 0

/-- The word's code is not one of the reserved codes 0xE and 0xF (R56 a). -/
def CmdWord.selects (w : CmdWord) : Bool :=
  decide ((w.extractLsb' 32 4).toNat ≤ 0xD)

/-- The word selects an operation and its ignored ARG bits are 0, as spec/95_test_vectors.md writes words. -/
def CmdWord.canonical (w : CmdWord) : Bool :=
  CmdWord.selects w && (w.extractLsb' 0 32 &&& ~~~(usedArgBits (w.extractLsb' 32 4)) == 0)

end Sys2Proof
end

