-- ==== Sys2Proof/Decode.lean ====
section
/-! DEFINITION. The decoder of the 36-bit command word (spec/30_encoding.md R52, R53, R55, R56), total, refusing by name,
and the encoder. -/

namespace Sys2Proof

/-- Why a command word is no operation: its code is reserved (R56 a). -/
inductive DecodeError where
  | reservedOpcode (opc : BitVec 4)
deriving DecidableEq, Repr

/-- `OPC` = `cmd[35:32]` (R52). -/
def opcField (w : CmdWord) : BitVec 4 := w.extractLsb' 32 4

/-- `ARG` = `cmd[31:0]` (R52). -/
def argField (w : CmdWord) : BitVec 32 := w.extractLsb' 0 32

/-- `ARG[8k+7:8k]` (R53). -/
def argByte (arg : BitVec 32) (k : Nat) : Byte := arg.extractLsb' (8 * k) 8

/-- The operation an `OPC` and an `ARG` select (R53, R55); none for the reserved codes. -/
def decodeFields (opc : BitVec 4) (arg : BitVec 32) : Except DecodeError Instr :=
  match opc.toNat with
  | 0x0 => .ok .capReset
  | 0x1 => .ok (.capBit (arg.getLsbD 0))
  | 0x2 => .ok .capReady
  | 0x3 => .ok .capRaw
  | 0x4 => .ok (.decode (argByte arg 0) (argByte arg 1) (argByte arg 2))
  | 0x5 => .ok .dispInit
  | 0x6 => .ok (.setNumber arg)
  | 0x7 => .ok (.setTime (argByte arg 2) (argByte arg 1) (argByte arg 0))
  | 0x8 => .ok (.showUm arg)
  | 0x9 => .ok (.showHex (argByte arg 0) (argByte arg 1) (argByte arg 2))
  | 0xA => .ok .refresh
  | 0xB => .ok .getFront
  | 0xC => .ok .needsUpdate
  | 0xD => .ok .muxTick
  | _ => .error (.reservedOpcode opc)

/-- The operation a command word presents (R52). -/
def decodeWord (w : CmdWord) : Except DecodeError Instr := decodeFields (opcField w) (argField w)

/-- `CMD36` = `OPC : ARG` (R52). -/
def cmdWord (opc : BitVec 4) (arg : BitVec 32) : CmdWord := opc ++ arg

/-- Three bytes in `ARG[23:0]`, `lo` in `ARG[7:0]`, `ARG[31:24]` = 0 (R53). -/
def argOfBytes (hi mid lo : Byte) : BitVec 32 := 0#8 ++ hi ++ mid ++ lo

/-- The command word of an operation, ignored ARG bits 0 (R53, R55). -/
def encode : Instr → CmdWord
  | .capReset => cmdWord 0x0 0
  | .capBit bit => cmdWord 0x1 ((BitVec.ofBool bit).zeroExtend 32)
  | .capReady => cmdWord 0x2 0
  | .capRaw => cmdWord 0x3 0
  | .decode b0 b1 b2 => cmdWord 0x4 (argOfBytes b2 b1 b0)
  | .dispInit => cmdWord 0x5 0
  | .setNumber value => cmdWord 0x6 value
  | .setTime hours minutes seconds => cmdWord 0x7 (argOfBytes hours minutes seconds)
  | .showUm valueUm => cmdWord 0x8 valueUm
  | .showHex b0 b1 b2 => cmdWord 0x9 (argOfBytes b2 b1 b0)
  | .refresh => cmdWord 0xA 0
  | .getFront => cmdWord 0xB 0
  | .needsUpdate => cmdWord 0xC 0
  | .muxTick => cmdWord 0xD 0

/-- The host's entry: the operation the decoder reads from the word whose bits are `w`, bit 0 the least significant bit
of `CMD36`. The port is 36 bits wide, so bits above 35 are not there to be read. Log entry 15. -/
def decodeTableWord (_nbits w : Nat) : Option Instr :=
  match decodeWord (BitVec.ofNat 36 w) with
  | .ok i => some i
  | .error _ => none

end Sys2Proof
end

