-- ==== Sys2Proof/Config.lean ====
section
/-! DEFINITION. The parameters the spec leaves open (spec/00_scope.md R6): constants with no body, so that a claim about
them is a claim about every value. The parameters of R6 that no rule depends on (R85) are left out: log entry 13. -/

namespace Sys2Proof

/-- `HEX_GLYPH`: the pattern SHOW_HEX shows for a nibble of 10 to 15 (R49, D6). OPEN in the spec. Log entry 7. -/
opaque Config.hexGlyph : Nat → Byte

/-- `TENS_GLYPH_EXT`: the pattern SET_TIME shows for a tens value of 10 to 25 (R50, D7). OPEN in the spec. Log entry 8. -/
opaque Config.tensGlyphExt : Nat → Byte

/-- `RAW_POWERON`: what `raw_bytes` holds before the first completed frame (R25, R104, D8). OPEN in the spec. Log entry 5. -/
opaque Config.rawPowerOn : RawBytes

/-- The u24 that CAP_RAW answers while no frame is ready: any value (R62, D12, U1). Its argument is the model's counter
`freeCount`, so each write of the state brings a fresh value. Log entry 6. -/
opaque Config.staleRaw : Nat → Frame

end Sys2Proof
end

