-- ==== Sys2Proof/Machine/State.lean ====
section
/-! DEFINITION. The state of the block (spec/10_state.md R11), the reasons a step can stop, and the state after hardware
reset (R25). Plain data. -/

namespace Sys2Proof.Machine

/-- A display image: six segment patterns, `slot0` the least significant digit (R17, R18, R30, R51). -/
structure Image where
  slot0 : Byte
  slot1 : Byte
  slot2 : Byte
  slot3 : Byte
  slot4 : Byte
  slot5 : Byte
deriving DecidableEq, Repr, Inhabited

/-- CaptureState (R12 to R15). -/
structure CaptureState where
  /-- `shift_register` (R12) -/
  shiftRegister : Frame
  /-- `bit_index`, 0 to 24 (R13, R16; log entry 9) -/
  bitIndex : Nat
  /-- `frame_ready` (R14) -/
  frameReady : Bool
  /-- `raw_bytes` (R15) -/
  rawBytes : RawBytes
deriving DecidableEq, Repr

/-- DisplayState (R17 to R19). -/
structure DisplayState where
  /-- `back_buffer` (R17) -/
  back : Image
  /-- `front_buffer` (R18) -/
  front : Image
  /-- `dirty` (R19) -/
  dirty : Bool
deriving DecidableEq, Repr

/-- MuxState (R22, decided by the spec). -/
structure MuxState where
  /-- `mux_index`, 0 to 5 (R22; log entry 18) -/
  muxIndex : Fin 6
deriving DecidableEq, Repr

/-- The eight elements of R11 in their three groups, the response port of R54, and two fields of the model's own. -/
structure State where
  capture : CaptureState
  display : DisplayState
  mux : MuxState
  /-- `resp` of the last operation (R54; log entry 4) -/
  resp : Resp
  /-- the model's own: the events still to be presented, in the one total order of R36 (log entry 1) -/
  inbox : List Event
  /-- the model's own: the argument of the free value of CAP_RAW (R62; log entry 6) -/
  freeCount : Nat
deriving DecidableEq, Repr

/-- The set of exception causes is empty (R87): the block never faults. -/
inductive Fault : Type
deriving DecidableEq, Repr

/-- Why a step is refused. -/
inductive Refusal where
  /-- An operation with no meaning yet. Raised only by an arm of `exec`; no arm raises it now. Safe. -/
  | notModelled (mnemonic : String)
  /-- A command word with the reserved code 0xE or 0xF (R56 a, D17). Raised by `step`, before any state change. Safe. -/
  | reservedCommand (opc : BitVec 4)
deriving DecidableEq, Repr

/-- What one step or one operation answers. -/
abbrev Result := Host.Outcome State Fault Refusal

/-- The state right after hardware reset (R25). `rawBytes` is the open parameter RAW_POWERON (log entry 5); `resp`,
`inbox` and `freeCount` are not elements of R25 (log entries 4, 1 and 6). -/
def State.reset : State where
  capture :=
    { shiftRegister := 0#24
      bitIndex := 0
      frameReady := false
      rawBytes := Config.rawPowerOn }
  display :=
    { back := ⟨0x00, 0x00, 0x00, 0x00, 0x00, 0x00⟩
      front := ⟨0x00, 0x00, 0x00, 0x00, 0x00, 0x00⟩
      dirty := true }
  mux := { muxIndex := 0 }
  resp := 0#64
  inbox := []
  freeCount := 0

end Sys2Proof.Machine
end

