-- ==== Sys2Proof/Machine/Operands.lean ====
section
/-! DEFINITION. The pure functions over operands: frame packing (spec/30_encoding.md R44, R45), the frame decoder
(spec/41_decoder.md R65), absolute value and digits (spec/42_display.md R70, R79), glyphs (R48 to R50). -/

namespace Sys2Proof.Machine

/-- `FRAME_BITS` (R5). -/
abbrev frameBits : Nat := 24

/-- `SIGN_BIT` (R5). -/
abbrev signBit : Nat := 20

/-- `TICK_UM`: micrometres per counter tick (R5). -/
abbrev tickUm : I32 := 10#32

/-- The packing of a completed frame into `raw_bytes` (R44). -/
def snapshot (frame : Frame) : RawBytes where
  b0 := frame.extractLsb' 0 8
  b1 := frame.extractLsb' 8 8
  b2 := frame.extractLsb' 16 8

/-- `frame24(b0, b1, b2)` = `b2 : b1 : b0` (R45). -/
def frame24 (b0 b1 b2 : Byte) : Frame := b2 ++ b1 ++ b0

/-- `DecodedMeasurement` (R46): a returned value, not state (R24). -/
structure DecodedMeasurement where
  relativeMicrometres : I32
  absoluteMicrometres : I32
deriving DecidableEq, Repr

/-- `decode_frame` (R65). -/
def decodeFrame (b0 b1 b2 : Byte) : DecodedMeasurement :=
  let frame := frame24 b0 b1 b2
  let mag : BitVec 16 := frame.extractLsb' 0 16
  let r : I32 := mag.zeroExtend 32 * tickUm
  { relativeMicrometres := if frame.getLsbD signBit then 0#32 - r else r
    absoluteMicrometres := 0#32 }

/-- `abs32(v)`, the mathematical absolute value, 0 to 2^31 (R79): a `u32` holds it exactly. -/
def abs32 (v : I32) : Nat := v.toInt.natAbs

/-- `v < 0` for `v : i32` (R72, R74). -/
def isNegative (v : I32) : Bool := decide (v.toInt < 0)

/-- The glyph table `GLYPH[0..11]` (R48). -/
def glyph (k : Fin 12) : Byte :=
  match k with
  | 0 => 0x3F
  | 1 => 0x06
  | 2 => 0x5B
  | 3 => 0x4F
  | 4 => 0x66
  | 5 => 0x6D
  | 6 => 0x7D
  | 7 => 0x07
  | 8 => 0x7F
  | 9 => 0x6F
  | 10 => 0x00
  | 11 => 0x40

/-- `DIGIT[d]` is `GLYPH[d]` for d from 0 to 9 (R48). -/
def digit (d : Fin 10) : Byte := glyph (d.castLE (by decide))

/-- `BLANK` = `GLYPH[10]` (R48). -/
def blankGlyph : Byte := glyph 10

/-- `MINUS` = `GLYPH[11]` (R48). -/
def minusGlyph : Byte := glyph 11

/-- `DP`, the decimal-point flag (R47). -/
def dpFlag : Byte := 0x80

/-- A glyph with the decimal point lit (R47). -/
def withPoint (pattern : Byte) : Byte := pattern ||| dpFlag

/-- `DIGIT[n mod 10]` (R70). -/
def lowDigit (n : Nat) : Byte := digit ⟨n % 10, Nat.mod_lt n (by decide)⟩

/-- `TENSDIGIT[k]` (R50): the open parameter for k from 10 to 25. -/
def tensDigit (k : Nat) : Byte := if k ≤ 9 then lowDigit k else Config.tensGlyphExt k

/-- `HEXDIGIT[n]` (R49): the open parameter for n from 10 to 15. -/
def hexDigit (n : Nibble) : Byte := if n.toNat ≤ 9 then lowDigit n.toNat else Config.hexGlyph n.toNat

/-- All six slots hold `pattern` (`buf[*] <- v`, R7). -/
def Image.fill (pattern : Byte) : Image := ⟨pattern, pattern, pattern, pattern, pattern, pattern⟩

/-- `buf[i]` (R7). -/
def Image.get (img : Image) (i : Fin 6) : Byte :=
  match i with
  | 0 => img.slot0
  | 1 => img.slot1
  | 2 => img.slot2
  | 3 => img.slot3
  | 4 => img.slot4
  | 5 => img.slot5

/-- `buf[i] <- v` (R7). No rule writes a slot above 5. -/
def Image.set (img : Image) (i : Nat) (pattern : Byte) : Image :=
  match i with
  | 0 => { img with slot0 := pattern }
  | 1 => { img with slot1 := pattern }
  | 2 => { img with slot2 := pattern }
  | 3 => { img with slot3 := pattern }
  | 4 => { img with slot4 := pattern }
  | 5 => { img with slot5 := pattern }
  | _ => img

/-- What the digit loop of SET_NUMBER and SHOW_UM leaves: the image, the next free slot, the digits not shown. -/
structure DigitRun where
  image : Image
  nextSlot : Nat
  rest : Nat
deriving DecidableEq, Repr

/-- The loop `while n > 0 and i < 6` of R72 and R74, `free` being the slots left (`6 - i`). -/
def writeDigits : (free i n : Nat) → Image → DigitRun
  | 0, i, n, img => ⟨img, i, n⟩
  | free + 1, i, n, img =>
    if n = 0 then ⟨img, i, n⟩ else writeDigits free (i + 1) (n / 10) (img.set i (lowDigit n))

/-- The image of SET_NUMBER (R72); the minus stands directly above the last digit (90_conflicts.md C1). -/
def numberImage (value : I32) : Image :=
  let n := abs32 value
  let blank := Image.fill blankGlyph
  if n = 0 then blank.set 0 (lowDigit 0)
  else
    let run := writeDigits 6 0 n blank
    if isNegative value ∧ run.nextSlot < 6 then run.image.set run.nextSlot minusGlyph else run.image

/-- The image of SET_TIME (R73). -/
def timeImage (hours minutes seconds : Byte) : Image where
  slot5 := tensDigit (hours.toNat / 10)
  slot4 := withPoint (lowDigit hours.toNat)
  slot3 := tensDigit (minutes.toNat / 10)
  slot2 := withPoint (lowDigit minutes.toNat)
  slot1 := tensDigit (seconds.toNat / 10)
  slot0 := lowDigit seconds.toNat

/-- The image of SHOW_UM (R74). `run.nextSlot` is the rule's `last + 1`. -/
def micrometreImage (valueUm : I32) : Image :=
  let h := abs32 valueUm / 10
  let img := Image.fill blankGlyph
  let img := img.set 0 (lowDigit h)
  let img := img.set 1 (lowDigit (h / 10))
  let img := img.set 2 (withPoint (lowDigit (h / 10 / 10)))
  let run := writeDigits 3 3 (h / 10 / 10 / 10) img
  if run.rest > 0 then Image.fill minusGlyph
  else if isNegative valueUm then
    if run.nextSlot < 6 then run.image.set run.nextSlot minusGlyph else run.image.set 5 minusGlyph
  else run.image

/-- `F[4i+3:4i]` (R75). -/
def frameNibble (frame : Frame) (i : Nat) : Nibble := frame.extractLsb' (4 * i) 4

/-- The image of SHOW_HEX (R75). -/
def hexImage (b0 b1 b2 : Byte) : Image :=
  let frame := frame24 b0 b1 b2
  { slot0 := hexDigit (frameNibble frame 0)
    slot1 := hexDigit (frameNibble frame 1)
    slot2 := hexDigit (frameNibble frame 2)
    slot3 := hexDigit (frameNibble frame 3)
    slot4 := hexDigit (frameNibble frame 4)
    slot5 := hexDigit (frameNibble frame 5) }

/-- `zext_64(raw_bytes[2] : raw_bytes[1] : raw_bytes[0])`, and of any u24 (R54, R62). -/
def frameResp (frame : Frame) : Resp := frame.zeroExtend 64

/-- DECODE's response: the absolute value above the relative one (R54, R66). -/
def measurementResp (m : DecodedMeasurement) : Resp := m.absoluteMicrometres ++ m.relativeMicrometres

/-- GET_FRONT's response: slot i in `resp[8i+7:8i]`, `resp[63:48]` = 0 (R54, R77). -/
def imageResp (img : Image) : Resp :=
  0#16 ++ img.slot5 ++ img.slot4 ++ img.slot3 ++ img.slot2 ++ img.slot1 ++ img.slot0

end Sys2Proof.Machine
end

