-- ==== Sys2Proof/Machine/Flags.lean ====
section
/-! DEFINITION. The two status flags (spec/10_state.md R14, R19): when `frame_ready` is set, how a flag is returned (R54),
and the level outputs (spec/60_exceptions.md R90). `dirty` is set by every write of the back buffer and cleared by a
refresh (R19, R80): those are constants in Machine/Ops.lean. -/

namespace Sys2Proof.Machine

/-- `frame_ready` is set exactly when `bit_index` reaches 24 (R14, R60). -/
def frameComplete (bitIndex : Nat) : Bool := decide (bitIndex = frameBits)

/-- `zext_64` of a flag (R54, R61, R78). -/
def flagResp (flag : Bool) : Resp := (BitVec.ofBool flag).zeroExtend 64

/-- The level output `frame_ready` (R90). -/
def State.frameReadyOut (s : State) : Bool := s.capture.frameReady

/-- The level output `dirty` (R90). -/
def State.dirtyOut (s : State) : Bool := s.display.dirty

end Sys2Proof.Machine
end

