-- ==== Sys2Proof/Machine/Ops.lean ====
section
/-! DEFINITION. The named operations over the state that the meanings share. Each is one atomic write (spec/20_memory.md
R32). There is no exception to take and none to return from (spec/60_exceptions.md R87, R92, R93), and no memory bus (R27).
Every write of an element advances the model's own `freeCount` (log entry 6). -/

namespace Sys2Proof.Machine

/-- `resp <- v` (R54). -/
def State.respond (s : State) (v : Resp) : State := { s with resp := v }

/-- `shift_register[i] <- bit`; a position above 23 names no bit (R12, R60). -/
def setBit (frame : Frame) (i : Nat) (bit : Bool) : Frame :=
  (frame &&& ~~~(1#24 <<< i)) ||| ((BitVec.ofBool bit).zeroExtend 24 <<< i)

/-- `reset()`: the three named fields are cleared, `raw_bytes` is not (R59, R66, R102). -/
def State.clearCapture (s : State) : State :=
  { s with
    capture := { s.capture with shiftRegister := 0#24, bitIndex := 0, frameReady := false }
    freeCount := s.freeCount + 1 }

/-- The accepting branch of CAP_BIT (R60): the snapshot holds the bit just stored. -/
def State.acceptBit (bit : Bool) (s : State) : State :=
  let frame := setBit s.capture.shiftRegister s.capture.bitIndex bit
  let count := s.capture.bitIndex + 1
  { s with
    capture :=
      { shiftRegister := frame
        bitIndex := count
        frameReady := if frameComplete count then true else s.capture.frameReady
        rawBytes := if frameComplete count then snapshot frame else s.capture.rawBytes }
    freeCount := s.freeCount + 1 }

/-- A formatting operation stores a whole new image and sets `dirty`, without comparing (R19, R69). -/
def State.compose (img : Image) (s : State) : State :=
  { s with
    display := { s.display with back := img, dirty := true }
    freeCount := s.freeCount + 1 }

/-- `init()`: both buffers blank, `dirty` set (R71). -/
def State.initDisplay (s : State) : State :=
  { s with
    display := { back := Image.fill blankGlyph, front := Image.fill blankGlyph, dirty := true }
    freeCount := s.freeCount + 1 }

/-- `refresh_if_needed()` (R76): the copy and the clearing of `dirty` are one step. -/
def State.publish (s : State) : State :=
  if s.display.dirty then
    { s with
      display := { s.display with front := s.display.back, dirty := false }
      freeCount := s.freeCount + 1 }
  else s

/-- The scan moves to the next slot, 5 wrapping to 0 (R84). -/
def State.scanNext (s : State) : State :=
  { s with
    mux := { muxIndex := if s.mux.muxIndex = 5 then 0 else s.mux.muxIndex + 1 }
    freeCount := s.freeCount + 1 }

/-- The u24 CAP_RAW answers: the snapshot while a frame is ready, otherwise any value (R62; log entry 6). -/
def State.rawAnswer (s : State) : Frame :=
  if s.capture.frameReady then
    frame24 s.capture.rawBytes.b0 s.capture.rawBytes.b1 s.capture.rawBytes.b2
  else Config.staleRaw s.freeCount

/-- The hardware reset input (R101): CAP_RESET, then DISP_INIT, then `mux_index <- 0`, one atomic step; `raw_bytes` is not
written. It is no operation and has no response. Log entry 10. -/
def State.hardwareReset (s : State) : State :=
  let s := s.clearCapture.initDisplay
  { s with mux := { muxIndex := 0 } }

/-- The next event the outside presents, and the state without it (R36; log entry 1). -/
def State.takeEvent (s : State) : Option (Event × State) :=
  match s.inbox with
  | [] => none
  | e :: rest => some (e, { s with inbox := rest })

/-- The scan output `seg_out` (R83). -/
def State.segOut (s : State) : Byte := s.display.front.get s.mux.muxIndex

/-- The scan output `dig_sel`, one-hot (R83). -/
def State.digSel (s : State) : BitVec 6 := 1#6 <<< s.mux.muxIndex.val

end Sys2Proof.Machine
end

