-- ==== Sys2Proof/Machine/Capture.lean ====
section
/-! DEFINITION. The frame capture state machine (spec/40_capture.md). -/

namespace Sys2Proof.Machine

/-- CAP_RESET (R59). -/
def execCapReset (s : State) : Result := .next (s.clearCapture.respond 0#64)

/-- CAP_BIT (R60): a bit offered while a frame waits is dropped (R64). -/
def execCapBit (bit : Bool) (s : State) : Result :=
  if s.capture.frameReady then .next (s.respond 0#64) else .next ((s.acceptBit bit).respond 0#64)

/-- CAP_READY (R61). -/
def execCapReady (s : State) : Result := .next (s.respond (flagResp s.capture.frameReady))

/-- CAP_RAW (R62). -/
def execCapRaw (s : State) : Result := .next (s.respond (frameResp s.rawAnswer))

end Sys2Proof.Machine
end

