-- ==== Sys2Proof/Machine/Decoder.lean ====
section
/-! DEFINITION. The frame decoder's operation (spec/41_decoder.md). -/

namespace Sys2Proof.Machine

/-- DECODE (R66): the decoding of the operand, and an unconditional capture reset. -/
def execDecode (b0 b1 b2 : Byte) (s : State) : Result :=
  .next (s.clearCapture.respond (measurementResp (decodeFrame b0 b1 b2)))

end Sys2Proof.Machine
end

