-- ==== Sys2Proof/Machine/Display.lean ====
section
/-! DEFINITION. The display buffer engine (spec/42_display.md). -/

namespace Sys2Proof.Machine

/-- DISP_INIT (R71). -/
def execDispInit (s : State) : Result := .next (s.initDisplay.respond 0#64)

/-- SET_NUMBER (R72). -/
def execSetNumber (value : I32) (s : State) : Result := .next ((s.compose (numberImage value)).respond 0#64)

/-- SET_TIME (R73). -/
def execSetTime (hours minutes seconds : Byte) (s : State) : Result :=
  .next ((s.compose (timeImage hours minutes seconds)).respond 0#64)

/-- SHOW_UM (R74). -/
def execShowUm (valueUm : I32) (s : State) : Result := .next ((s.compose (micrometreImage valueUm)).respond 0#64)

/-- SHOW_HEX (R75). -/
def execShowHex (b0 b1 b2 : Byte) (s : State) : Result := .next ((s.compose (hexImage b0 b1 b2)).respond 0#64)

/-- REFRESH (R76). -/
def execRefresh (s : State) : Result := .next (s.publish.respond 0#64)

/-- GET_FRONT (R77). -/
def execGetFront (s : State) : Result := .next (s.respond (imageResp s.display.front))

/-- NEEDS_UPDATE (R78). -/
def execNeedsUpdate (s : State) : Result := .next (s.respond (flagResp s.display.dirty))

end Sys2Proof.Machine
end

