-- ==== Sys2Proof/Machine/Mux.lean ====
section
/-! DEFINITION. The multiplexer scan logic (spec/43_mux.md, decided by the spec). -/

namespace Sys2Proof.Machine

/-- MUX_TICK (R84). -/
def execMuxTick (s : State) : Result := .next (s.scanNext.respond 0#64)

end Sys2Proof.Machine
end

