-- ==== Sys2Proof/Machine/Dispatch.lean ====
section
/-! DEFINITION. One arm per operation: its meaning. -/

namespace Sys2Proof.Machine

def exec (i : Instr) (s : State) : Host.Outcome State Fault Refusal :=
  match i with
  -- spec/40_capture.md
  | .capReset => Sys2Proof.Machine.execCapReset s
  | .capBit bit => Sys2Proof.Machine.execCapBit bit s
  | .capReady => Sys2Proof.Machine.execCapReady s
  | .capRaw => Sys2Proof.Machine.execCapRaw s
  -- spec/41_decoder.md
  | .decode b0 b1 b2 => Sys2Proof.Machine.execDecode b0 b1 b2 s
  -- spec/42_display.md
  | .dispInit => Sys2Proof.Machine.execDispInit s
  | .setNumber value => Sys2Proof.Machine.execSetNumber value s
  | .setTime hours minutes seconds => Sys2Proof.Machine.execSetTime hours minutes seconds s
  | .showUm valueUm => Sys2Proof.Machine.execShowUm valueUm s
  | .showHex b0 b1 b2 => Sys2Proof.Machine.execShowHex b0 b1 b2 s
  | .refresh => Sys2Proof.Machine.execRefresh s
  | .getFront => Sys2Proof.Machine.execGetFront s
  | .needsUpdate => Sys2Proof.Machine.execNeedsUpdate s
  -- spec/43_mux.md
  | .muxTick => Sys2Proof.Machine.execMuxTick s

end Sys2Proof.Machine
end

