-- ==== Sys2Proof/Machine/Step.lean ====
section
/-! DEFINITION. One step of the block: the next event of the one total order (spec/20_memory.md R32, R36) takes effect,
whole. With no event presented the block stays as it is (spec/00_scope.md R9; log entry 2). -/

namespace Sys2Proof.Machine

/-- What one event does: a command word runs its operation (R52, R55), a reserved code is refused (R56), and the reset
input resets (R101). -/
def applyEvent (e : Event) (s : State) : Host.Outcome State Fault Refusal :=
  match e with
  | .hardwareReset => .next s.hardwareReset
  | .command _ word =>
    match decodeWord word with
    | .ok i => exec i s
    | .error (.reservedOpcode opc) => .refused (.reservedCommand opc)

/-- One step. -/
def step (s : State) : Host.Outcome State Fault Refusal :=
  match s.takeEvent with
  | none => .next s
  | some (e, s') => applyEvent e s'

/-- The host's entry: the command word `w` is presented next, by `main`, the agent of a line with no prefix (R57). The
port is 36 bits wide. Log entries 3 and 15. -/
def State.withFetchWord (s : State) (_nbits w : Nat) : State :=
  { s with inbox := .command .main (BitVec.ofNat 36 w) :: s.inbox }

end Sys2Proof.Machine
end

