-- ==== Sys2Proof/Machine/Pseudo.lean ====
section
/-! DEFINITION. The pseudo-operations of spec/30_encoding.md R58, as what their agent issues: the k-th operation, given the
response to the one before. Operations of other agents may fall between (R58), so the expansion adds nothing to `step`.
Log entry 19. -/

namespace Sys2Proof.Machine

/-- Byte k of a response (R54). -/
def respByte (answer : Resp) (k : Nat) : Byte := answer.extractLsb' (8 * k) 8

/-- `resp[31:0]` of DECODE, its relative micrometres (R54). -/
def respRelative (answer : Resp) : I32 := answer.extractLsb' 0 32

/-- The k-th operation of the expansion, `answer` being the response to the operation before it (R58). -/
def pseudoIssue (p : Pseudo) (k : Nat) (answer : Resp) : Option Instr :=
  match p, k with
  | .feed24 frame, k => if k < 24 then some (.capBit (frame.getLsbD k)) else none
  | .decodeCaptured, 0 => some .capRaw
  | .decodeCaptured, 1 => some (.decode (respByte answer 0) (respByte answer 1) (respByte answer 2))
  | .decodeCaptured, _ => none
  | .showCapturedHex, 0 => some .capRaw
  | .showCapturedHex, 1 => some (.showHex (respByte answer 0) (respByte answer 1) (respByte answer 2))
  | .showCapturedHex, _ => none
  | .showMeasurement, 0 => some .capRaw
  | .showMeasurement, 1 => some (.decode (respByte answer 0) (respByte answer 1) (respByte answer 2))
  | .showMeasurement, 2 => some (.showUm (respRelative answer))
  | .showMeasurement, _ => none

/-- The agent that issues the expansion (R57, R58). -/
def pseudoAgent : Pseudo → Agent
  | .feed24 _ => .bit
  | .decodeCaptured => .main
  | .showCapturedHex => .main
  | .showMeasurement => .main

/-- The event by which the k-th operation is presented (R52). -/
def pseudoEvent (p : Pseudo) (k : Nat) (answer : Resp) : Option Event :=
  (pseudoIssue p k answer).map fun i => .command (pseudoAgent p) (encode i)

/-- The expansion from its k-th operation on, with no other agent's operation between, at most `fuel` operations. -/
def pseudoRunFrom (p : Pseudo) : (fuel k : Nat) → State → Result
  | 0, _, s => .next s
  | fuel + 1, k, s =>
    match pseudoIssue p k s.resp with
    | none => .next s
    | some i =>
      match exec i s with
      | .next t => pseudoRunFrom p fuel (k + 1) t
      | .fault r => .fault r
      | .refused r => .refused r

/-- The whole expansion, uninterrupted: no expansion is longer than the 24 operations of FEED24. -/
def pseudoRun (p : Pseudo) (s : State) : Result := pseudoRunFrom p 24 0 s

end Sys2Proof.Machine
end

