-- ==== Sys2Proof/Safety.lean ====
section
/-! DEFINITION. The terms claims use: sequences of operations (spec/70_reset_and_hazards.md R113), the invariants of the
state (spec/10_state.md R16, R20), the usage contract of the agents (spec/60_exceptions.md R95), and which inboxes keep the
block out of the one refusal (spec/30_encoding.md R56). -/

namespace Sys2Proof.Machine

/-- A finite sequence of operations in the order they take effect (R36, R113). -/
def execAll : List Instr → State → Result
  | [], s => .next s
  | i :: rest, s =>
    match exec i s with
    | .next t => execAll rest t
    | .fault r => .fault r
    | .refused r => .refused r

/-- The capture invariant with its two further facts (R16). -/
abbrev CaptureInv (c : CaptureState) : Prop :=
  c.bitIndex ≤ 24 ∧ (c.frameReady = true ↔ c.bitIndex = 24) ∧
    (c.frameReady = true → c.rawBytes = snapshot c.shiftRegister) ∧
    ∀ i, i < 24 → c.bitIndex ≤ i → c.shiftRegister.getLsbD i = false

/-- What R20's display invariant comes to: a clean display shows the image last composed. -/
abbrev DisplayInv (d : DisplayState) : Prop := d.dirty = false → d.front = d.back

/-- Capture state 0 of the diagram of spec/40_capture.md. -/
abbrev CaptureCleared (c : CaptureState) : Prop :=
  c.shiftRegister = 0#24 ∧ c.bitIndex = 0 ∧ c.frameReady = false

/-- The operations the source assigns to each agent (R95): a usage contract, never enforced (R94). -/
def agentIssues (agent : Agent) (i : Instr) : Bool :=
  match i with
  | .capReset => agent == .main || agent == .tmo
  | .capBit _ => agent == .bit
  | .capReady => agent == .main
  | .capRaw => agent == .main
  | .decode _ _ _ => agent == .main
  | .dispInit => agent == .main
  | .setNumber _ => agent == .main
  | .setTime _ _ _ => agent == .main
  | .showUm _ => agent == .main
  | .showHex _ _ _ => agent == .main
  | .refresh => agent == .main
  | .getFront => agent == .xport
  | .needsUpdate => agent == .main
  | .muxTick => agent == .xport

/-- The event is a reset, or a command its agent is expected to issue (R95). -/
def eventObeysContract : Event → Bool
  | .hardwareReset => true
  | .command agent word =>
    match decodeWord word with
    | .ok i => agentIssues agent i
    | .error _ => false

/-- The event is not a reserved command code (R56 a). -/
def eventSelects : Event → Bool
  | .hardwareReset => true
  | .command _ word => CmdWord.selects word

/-- A formatting operation (R69). -/
def isFormatting : Instr → Bool
  | .setNumber _ => true
  | .setTime _ _ _ => true
  | .showUm _ => true
  | .showHex _ _ _ => true
  | _ => false

/-- One of the four queries (R33). -/
def isQuery : Instr → Bool
  | .capReady => true
  | .capRaw => true
  | .getFront => true
  | .needsUpdate => true
  | _ => false

/-- Two states hold the same eight elements (R11). -/
abbrev SameElements (s t : State) : Prop := t.capture = s.capture ∧ t.display = s.display ∧ t.mux = s.mux

end Sys2Proof.Machine
end

