-- ==== Sys2Proof/Certificates/Slice0/Obligations.lean ====
section
/-! DEFINITION. The statements about the model, for the provers. -/

open Sys2Proof Sys2Proof.Machine

/-! ### spec/40_capture.md -/

/-- R59. Its code and ignored ARG; its effect and its frame; corner cases b and c. -/
def Obligations.CapResetClearsCapture : Prop :=
  (∀ w : CmdWord, opcField w = 0x0#4 → decodeWord w = .ok .capReset) ∧
    (∀ s : State, ∃ t, exec .capReset s = .next t ∧
      t.capture.shiftRegister = 0#24 ∧ t.capture.bitIndex = 0 ∧ t.capture.frameReady = false ∧ t.resp = 0#64 ∧
      t.capture.rawBytes = s.capture.rawBytes ∧ t.display = s.display ∧ t.mux = s.mux ∧
      (CaptureCleared s.capture → t.capture = s.capture)) ∧
    ∀ (i : Instr) (s t : State), s.capture.frameReady = true → exec i s = .next t → t.capture.frameReady = false →
      i = .capReset ∨ ∃ b0 b1 b2, i = .decode b0 b1 b2

/-- R60. Its code and operand bit; the dropped bit and the accepted bit, with corner cases a, c, d and e. The premise is
the invariant of R16, kept by `Obligations.CaptureInvariantKept`. -/
def Obligations.CapBitAcceptsOrDrops : Prop :=
  (∀ w : CmdWord, opcField w = 0x1#4 → decodeWord w = .ok (.capBit (w.getLsbD 0))) ∧
    ∀ (bit : Bool) (s : State), CaptureInv s.capture → ∃ t, exec (.capBit bit) s = .next t ∧
      t.resp = 0#64 ∧ t.display = s.display ∧ t.mux = s.mux ∧ t.capture.bitIndex ≤ 24 ∧
      (s.capture.frameReady = true → t.capture = s.capture) ∧
      (s.capture.frameReady = false →
        s.capture.bitIndex ≤ 23 ∧ t.capture.bitIndex = s.capture.bitIndex + 1 ∧
        (∀ j, j < 24 → t.capture.shiftRegister.getLsbD j =
          if j = s.capture.bitIndex then bit else s.capture.shiftRegister.getLsbD j) ∧
        t.capture.shiftRegister =
          s.capture.shiftRegister ||| ((BitVec.ofBool bit).zeroExtend 24 <<< s.capture.bitIndex) ∧
        (t.capture.bitIndex = 24 → t.capture.frameReady = true ∧
          t.capture.rawBytes.b0 = t.capture.shiftRegister.extractLsb' 0 8 ∧
          t.capture.rawBytes.b1 = t.capture.shiftRegister.extractLsb' 8 8 ∧
          t.capture.rawBytes.b2 = t.capture.shiftRegister.extractLsb' 16 8) ∧
        (t.capture.bitIndex ≠ 24 → t.capture.frameReady = false ∧ t.capture.rawBytes = s.capture.rawBytes))

/-- R61. Its code; the flag as a number; nothing changes; 1 exactly in state 24. -/
def Obligations.CapReadyReturnsFlag : Prop :=
  (∀ w : CmdWord, opcField w = 0x2#4 → decodeWord w = .ok .capReady) ∧
    ∀ s : State, ∃ t, exec .capReady s = .next t ∧ SameElements s t ∧
      t.resp = (if s.capture.frameReady then 1#64 else 0#64) ∧
      (CaptureInv s.capture → (t.resp = 1#64 ↔ s.capture.bitIndex = 24))

/-- R62. Its code; the snapshot while a frame is ready, some u24 otherwise; nothing changes; corner cases a and c. What
stands in the u24 while no frame is ready is a free value (log entry 6), of which nothing is stated. -/
def Obligations.CapRawReturnsSnapshot : Prop :=
  (∀ w : CmdWord, opcField w = 0x3#4 → decodeWord w = .ok .capRaw) ∧
    (∀ s : State, ∃ t, exec .capRaw s = .next t ∧ SameElements s t ∧ t.resp.toNat < 2 ^ 24 ∧
      (s.capture.frameReady = true →
        t.resp = (s.capture.rawBytes.b2 ++ s.capture.rawBytes.b1 ++ s.capture.rawBytes.b0).zeroExtend 64) ∧
      (CaptureInv s.capture → s.capture.frameReady = true → t.resp = s.capture.shiftRegister.zeroExtend 64)) ∧
    ∀ (i : Instr) (s t : State), s.capture.frameReady = true → exec i s = .next t →
      t.capture.rawBytes = s.capture.rawBytes ∧
      (t.capture.frameReady = true ∨ i = .capReset ∨ ∃ b0 b1 b2, i = .decode b0 b1 b2)

/-- The property of spec/40_capture.md section 3 on completion, with the shift register of R12: from capture state 0, any
number of bits. The spec marks the precise form as derived. -/
def Obligations.FrameCompletesOnTwentyFourthBit : Prop :=
  ∀ (bits : List Bool) (s : State), CaptureCleared s.capture →
    ∃ t, execAll (bits.map Instr.capBit) s = .next t ∧ t.display = s.display ∧ t.mux = s.mux ∧
      (t.capture.frameReady = true ↔ 24 ≤ bits.length) ∧
      t.capture.bitIndex = min bits.length 24 ∧
      (∀ i, i < 24 → t.capture.shiftRegister.getLsbD i = bits.getD i false) ∧
      (24 ≤ bits.length → ∀ i, i < 24 →
        (t.capture.rawBytes.b2 ++ t.capture.rawBytes.b1 ++ t.capture.rawBytes.b0).getLsbD i = bits.getD i false) ∧
      (bits.length < 24 → t.capture.rawBytes = s.capture.rawBytes)

/-- Backpressure (spec/40_capture.md section 3, spec/70_reset_and_hazards.md section 2): while a frame waits, any number
of bits changes none of the eight elements. -/
def Obligations.WaitingFrameDropsBits : Prop :=
  ∀ (bits : List Bool) (s : State), s.capture.frameReady = true →
    ∃ t, execAll (bits.map Instr.capBit) s = .next t ∧ SameElements s t

/-! ### spec/41_decoder.md -/

/-- DECODE (spec/41_decoder.md). The function (section 1); the operation's code and operands, its response, the implicit
reset and what it leaves (section 2). That the reset happens from every state, no frame waiting included, is the spec's own
decision D11 (log entry 12). -/
def Obligations.DecodeReturnsMeasurement : Prop :=
  (∀ b0 b1 b2 : Byte,
    (decodeFrame b0 b1 b2).relativeMicrometres.toInt =
        (if b2.getLsbD 4 then -((b0.toNat + 256 * b1.toNat : Nat) * 10 : Int)
          else ((b0.toNat + 256 * b1.toNat : Nat) * 10 : Int)) ∧
      (decodeFrame b0 b1 b2).absoluteMicrometres = 0#32) ∧
    (∀ w : CmdWord, opcField w = 0x4#4 →
      decodeWord w = .ok (.decode (w.extractLsb' 0 8) (w.extractLsb' 8 8) (w.extractLsb' 16 8))) ∧
    ∀ (b0 b1 b2 : Byte) (s : State), ∃ t, exec (.decode b0 b1 b2) s = .next t ∧
      t.resp.extractLsb' 0 32 = (decodeFrame b0 b1 b2).relativeMicrometres ∧ t.resp.extractLsb' 32 32 = 0#32 ∧
      t.capture.shiftRegister = 0#24 ∧ t.capture.bitIndex = 0 ∧ t.capture.frameReady = false ∧
      t.capture.rawBytes = s.capture.rawBytes ∧ t.display = s.display ∧ t.mux = s.mux

/-- The arithmetic of spec/41_decoder.md section 3: range, multiples of 10, and the sign flag as negation. -/
def Obligations.DecodeRangeAndNegation : Prop :=
  ∀ b0 b1 b2 : Byte,
    (decodeFrame b0 b1 b2).relativeMicrometres.toInt % 10 = 0 ∧
      -655350 ≤ (decodeFrame b0 b1 b2).relativeMicrometres.toInt ∧
      (decodeFrame b0 b1 b2).relativeMicrometres.toInt ≤ 655350 ∧
      (decodeFrame b0 b1 (b2 ^^^ 0x10#8)).relativeMicrometres.toInt =
        -(decodeFrame b0 b1 b2).relativeMicrometres.toInt

/-- The corner cases of spec/41_decoder.md section 3: frames that agree on bits 0 to 15 and bit 20 decode alike, and a
magnitude of 0 decodes to 0 whatever the sign. -/
def Obligations.DecodeIgnoresReservedBits : Prop :=
  (∀ b0 b1 b2 c0 c1 c2 : Byte, c0 = b0 → c1 = b1 → c2.getLsbD 4 = b2.getLsbD 4 →
    decodeFrame c0 c1 c2 = decodeFrame b0 b1 b2) ∧
    ∀ b2 : Byte, (decodeFrame 0x00#8 0x00#8 b2).relativeMicrometres = 0#32

/-! ### spec/42_display.md -/

/-- R71. Its code; both buffers blank, `dirty` true; the frame. -/
def Obligations.DispInitBlanksBothBuffers : Prop :=
  (∀ w : CmdWord, opcField w = 0x5#4 → decodeWord w = .ok .dispInit) ∧
    ∀ s : State, ∃ t, exec .dispInit s = .next t ∧
      (∀ i : Fin 6, t.display.back.get i = 0x00#8 ∧ t.display.front.get i = 0x00#8) ∧ t.display.dirty = true ∧
      t.resp = 0#64 ∧ t.capture = s.capture ∧ t.mux = s.mux

/-- SET_NUMBER (spec/42_display.md section 2). Its code and operand; slot i shows decimal digit i of the magnitude, the
minus stands directly above the last digit where a slot is left, every other slot is blank; zero shows one 0. `Nat.digits
10 n` lists the digits of n, least significant first. The place of the minus is the spec's own resolution C1
(spec/90_conflicts.md) and the magnitude 2^31 of the operand -2^31 its decision D5: log entry 12. -/
def Obligations.SetNumberImage : Prop :=
  (∀ w : CmdWord, opcField w = 0x6#4 → decodeWord w = .ok (.setNumber (w.extractLsb' 0 32))) ∧
    ∀ (value : I32) (s : State), ∃ t, exec (.setNumber value) s = .next t ∧
      (value.toInt = 0 → ∀ i : Fin 6, t.display.back.get i = if i = 0 then digit 0 else blankGlyph) ∧
      (value.toInt ≠ 0 → ∀ i : Fin 6, t.display.back.get i =
        if i.val < (Nat.digits 10 value.toInt.natAbs).length then
          lowDigit ((Nat.digits 10 value.toInt.natAbs).getD i.val 0)
        else if value.toInt < 0 ∧ i.val = (Nat.digits 10 value.toInt.natAbs).length then minusGlyph
        else blankGlyph) ∧
      t.display.front = s.display.front ∧ t.display.dirty = true ∧ t.resp = 0#64 ∧
      t.capture = s.capture ∧ t.mux = s.mux

/-- R73. Its code and operands; the six slots, the tens slot of a field of 100 or more being the open parameter. -/
def Obligations.SetTimeImage : Prop :=
  (∀ w : CmdWord, opcField w = 0x7#4 →
    decodeWord w = .ok (.setTime (w.extractLsb' 16 8) (w.extractLsb' 8 8) (w.extractLsb' 0 8))) ∧
    ∀ (hours minutes seconds : Byte) (s : State), ∃ t, exec (.setTime hours minutes seconds) s = .next t ∧
      t.display.back.slot5 =
        (if hours.toNat < 100 then lowDigit (hours.toNat / 10) else Config.tensGlyphExt (hours.toNat / 10)) ∧
      t.display.back.slot4 = (lowDigit (hours.toNat % 10) ||| 0x80#8) ∧
      t.display.back.slot3 =
        (if minutes.toNat < 100 then lowDigit (minutes.toNat / 10) else Config.tensGlyphExt (minutes.toNat / 10)) ∧
      t.display.back.slot2 = (lowDigit (minutes.toNat % 10) ||| 0x80#8) ∧
      t.display.back.slot1 =
        (if seconds.toNat < 100 then lowDigit (seconds.toNat / 10) else Config.tensGlyphExt (seconds.toNat / 10)) ∧
      t.display.back.slot0 = lowDigit (seconds.toNat % 10) ∧
      t.display.front = s.display.front ∧ t.display.dirty = true ∧ t.resp = 0#64 ∧
      t.capture = s.capture ∧ t.mux = s.mux

/-- SHOW_UM (spec/42_display.md section 2). Its code and operand; six minus glyphs from 10 metres on; below that the digits
of the hundredths count, at least three, the point on slot 2, the minus directly above the last digit, or on slot 5 where
no slot is left. Slots 0 to 2 always written and the sign of -9 to -1 are the spec's own decision D13, the magnitude of the
operand -2^31 its decision D5: log entry 12. -/
def Obligations.ShowUmImage : Prop :=
  (∀ w : CmdWord, opcField w = 0x8#4 → decodeWord w = .ok (.showUm (w.extractLsb' 0 32))) ∧
    ∀ (valueUm : I32) (s : State), ∃ t, exec (.showUm valueUm) s = .next t ∧
      (10000000 ≤ valueUm.toInt.natAbs → ∀ i : Fin 6, t.display.back.get i = minusGlyph) ∧
      (valueUm.toInt.natAbs < 10000000 → ∀ i : Fin 6, t.display.back.get i =
        if valueUm.toInt < 0 ∧ i.val = min (max 3 (Nat.digits 10 (valueUm.toInt.natAbs / 10)).length) 5 then minusGlyph
        else if i.val < max 3 (Nat.digits 10 (valueUm.toInt.natAbs / 10)).length then
          (if i = 2 then lowDigit ((Nat.digits 10 (valueUm.toInt.natAbs / 10)).getD 2 0) ||| 0x80#8
            else lowDigit ((Nat.digits 10 (valueUm.toInt.natAbs / 10)).getD i.val 0))
        else blankGlyph) ∧
      t.display.front = s.display.front ∧ t.display.dirty = true ∧ t.resp = 0#64 ∧
      t.capture = s.capture ∧ t.mux = s.mux

/-- The operation SHOW_HEX (spec/42_display.md section 2): slot i shows nibble i of the frame, 0 to 9 from the table,
10 to 15 from the open parameter; a nibble of 0 to 9 shows no decimal point. The rule's sentence that bit 7 is never set
cannot be stated of the open patterns (log entry 7), so the statement is derived. -/
def Obligations.ShowHexImage : Prop :=
  (∀ w : CmdWord, opcField w = 0x9#4 →
    decodeWord w = .ok (.showHex (w.extractLsb' 0 8) (w.extractLsb' 8 8) (w.extractLsb' 16 8))) ∧
    ∀ (b0 b1 b2 : Byte) (s : State), ∃ t, exec (.showHex b0 b1 b2) s = .next t ∧
      (∀ i : Fin 6, t.display.back.get i =
        if ((b2 ++ b1 ++ b0).extractLsb' (4 * i.val) 4).toNat < 10 then
          lowDigit ((b2 ++ b1 ++ b0).extractLsb' (4 * i.val) 4).toNat
        else Config.hexGlyph ((b2 ++ b1 ++ b0).extractLsb' (4 * i.val) 4).toNat) ∧
      (∀ i : Fin 6, ((b2 ++ b1 ++ b0).extractLsb' (4 * i.val) 4).toNat < 10 →
        (t.display.back.get i).getLsbD 7 = false) ∧
      t.display.front = s.display.front ∧ t.display.dirty = true ∧ t.resp = 0#64 ∧
      t.capture = s.capture ∧ t.mux = s.mux

/-- R76. Its code; the copy and the clearing when `dirty`, nothing otherwise; a second refresh changes nothing. -/
def Obligations.RefreshPublishesDirtyImage : Prop :=
  (∀ w : CmdWord, opcField w = 0xA#4 → decodeWord w = .ok .refresh) ∧
    ∀ s : State, ∃ t, exec .refresh s = .next t ∧
      (s.display.dirty = true → t.display.front = s.display.back) ∧
      (s.display.dirty = false → t.display.front = s.display.front) ∧
      t.display.back = s.display.back ∧ t.display.dirty = false ∧ t.resp = 0#64 ∧
      t.capture = s.capture ∧ t.mux = s.mux ∧
      ∃ u, exec .refresh t = .next u ∧ SameElements t u

/-- R77. Its code; slot i of the front buffer in byte i of the response, the top 16 bits 0; nothing changes. -/
def Obligations.GetFrontReturnsPublishedImage : Prop :=
  (∀ w : CmdWord, opcField w = 0xB#4 → decodeWord w = .ok .getFront) ∧
    ∀ s : State, ∃ t, exec .getFront s = .next t ∧ SameElements s t ∧
      (∀ i : Fin 6, t.resp.extractLsb' (8 * i.val) 8 = s.display.front.get i) ∧ t.resp.extractLsb' 48 16 = 0#16

/-- R78. Its code; `dirty` as a number; nothing changes. -/
def Obligations.NeedsUpdateReturnsDirty : Prop :=
  (∀ w : CmdWord, opcField w = 0xC#4 → decodeWord w = .ok .needsUpdate) ∧
    ∀ s : State, ∃ t, exec .needsUpdate s = .next t ∧ SameElements s t ∧
      t.resp = if s.display.dirty then 1#64 else 0#64

/-- R69. Each formatting operation stores one image, the same from every state, sets `dirty`, and touches nothing else;
REFRESH, GET_FRONT and NEEDS_UPDATE neither change `back_buffer` nor set `dirty`. -/
def Obligations.FormattingReadsNoState : Prop :=
  (∀ i : Instr, isFormatting i = true → ∃ img : Image, ∀ s : State, ∃ t, exec i s = .next t ∧
    t.display.back = img ∧ t.display.dirty = true ∧ t.display.front = s.display.front ∧
    t.capture = s.capture ∧ t.mux = s.mux) ∧
    ∀ (i : Instr) (s t : State), i = .refresh ∨ i = .getFront ∨ i = .needsUpdate → exec i s = .next t →
      t.display.back = s.display.back ∧ (t.display.dirty = true → s.display.dirty = true)

/-- The flag `dirty` over every operation (spec/42_display.md section 3). -/
def Obligations.DirtyOverEveryOperation : Prop :=
  ∀ (i : Instr) (s t : State), exec i s = .next t →
    t.display.dirty =
      if isFormatting i || i == .dispInit then true else if i == .refresh then false else s.display.dirty

/-- Both overflow policies (spec/42_display.md section 3): SET_NUMBER keeps the low six digits with no sign, SHOW_UM shows
six minus glyphs; with no free slot for the sign SET_NUMBER drops it and SHOW_UM overwrites the top digit with it. The
operand -2^31, which falls under the first three clauses, has the magnitude of the spec's own decision D5 (log entry 12). -/
def Obligations.TwoOverflowPolicies : Prop :=
  (∀ (value : I32) (s : State), 1000000 ≤ value.toInt.natAbs → ∃ t, exec (.setNumber value) s = .next t ∧
    ∀ i : Fin 6, t.display.back.get i = lowDigit (value.toInt.natAbs / 10 ^ i.val % 10)) ∧
    (∀ (valueUm : I32) (s : State), 10000000 ≤ valueUm.toInt.natAbs → ∃ t, exec (.showUm valueUm) s = .next t ∧
      ∀ i : Fin 6, t.display.back.get i = minusGlyph) ∧
    (∀ (value : I32) (s : State), value.toInt < 0 → 100000 ≤ value.toInt.natAbs → ∃ t,
      exec (.setNumber value) s = .next t ∧
      ∀ i : Fin 6, t.display.back.get i = lowDigit (value.toInt.natAbs / 10 ^ i.val % 10)) ∧
    ∀ (valueUm : I32) (s : State), valueUm.toInt < 0 → 1000000 ≤ valueUm.toInt.natAbs →
      valueUm.toInt.natAbs < 10000000 → ∃ t u, exec (.showUm valueUm) s = .next t ∧
      exec (.showUm (0#32 - valueUm)) s = .next u ∧ t.display.back.slot5 = minusGlyph ∧
      u.display.back.slot5 = lowDigit (valueUm.toInt.natAbs / 1000000) ∧
      ∀ i : Fin 6, i ≠ 5 → t.display.back.get i = u.display.back.get i

/-- What each formatting operation can put in a slot (spec/42_display.md section 3). -/
def Obligations.SlotContents : Prop :=
  (∀ (value : I32) (s t : State), exec (.setNumber value) s = .next t → ∀ i : Fin 6,
    (∃ d, t.display.back.get i = digit d) ∨ t.display.back.get i = minusGlyph ∨ t.display.back.get i = blankGlyph) ∧
    (∀ (h m sec : Byte) (s t : State), exec (.setTime h m sec) s = .next t → ∀ i : Fin 6,
      if i = 4 ∨ i = 2 then ∃ d, t.display.back.get i = (digit d ||| 0x80#8)
      else if i = 0 then ∃ d, t.display.back.get i = digit d
      else (∃ d, t.display.back.get i = digit d) ∨
        ∃ k, 10 ≤ k ∧ k ≤ 25 ∧ t.display.back.get i = Config.tensGlyphExt k) ∧
    (∀ (valueUm : I32) (s t : State), exec (.showUm valueUm) s = .next t →
      (∀ i : Fin 6, t.display.back.get i = minusGlyph) ∨
        ∀ i : Fin 6, if i = 2 then ∃ d, t.display.back.get i = (digit d ||| 0x80#8)
          else (∃ d, t.display.back.get i = digit d) ∨ t.display.back.get i = minusGlyph ∨
            t.display.back.get i = blankGlyph) ∧
    ∀ (b0 b1 b2 : Byte) (s t : State), exec (.showHex b0 b1 b2) s = .next t → ∀ i : Fin 6,
      (∃ d, t.display.back.get i = digit d) ∨ ∃ k, 10 ≤ k ∧ k ≤ 15 ∧ t.display.back.get i = Config.hexGlyph k

/-- The absolute value, 2^31 for the operand -2^31 by the spec's decision D5 (spec/42_display.md section 3). -/
def Obligations.AbsoluteValueOfOperand : Prop :=
  ∀ v : I32, abs32 v ≤ 2 ^ 31 ∧ (0 ≤ v.toInt → (abs32 v : Int) = v.toInt) ∧
    (v.toInt < 0 → (abs32 v : Int) = -v.toInt) ∧ (v = 0x80000000#32 → abs32 v = 2147483648)

/-! ### spec/30_encoding.md -/

/-- R48. The twelve glyphs; DIGIT, BLANK and MINUS; no glyph has the point. -/
def Obligations.GlyphTable : Prop :=
  (List.ofFn glyph) =
      [0x3F#8, 0x06#8, 0x5B#8, 0x4F#8, 0x66#8, 0x6D#8, 0x7D#8, 0x07#8, 0x7F#8, 0x6F#8, 0x00#8, 0x40#8] ∧
    blankGlyph = 0x00#8 ∧ minusGlyph = 0x40#8 ∧
    (∀ d : Fin 10, digit d = glyph ⟨d.val, by omega⟩ ∧ ∀ n : Nat, n % 10 = d.val → lowDigit n = digit d) ∧
    ∀ k : Fin 12, (glyph k).getLsbD 7 = false

/-- R44 and R45. Packing takes byte k from frame bits 8k+7 to 8k, and reassembly is its inverse both ways. -/
def Obligations.SnapshotAndReassembly : Prop :=
  (∀ f : Frame, ∀ i, i < 8 →
    (snapshot f).b0.getLsbD i = f.getLsbD i ∧ (snapshot f).b1.getLsbD i = f.getLsbD (8 + i) ∧
      (snapshot f).b2.getLsbD i = f.getLsbD (16 + i)) ∧
    (∀ f : Frame, frame24 (snapshot f).b0 (snapshot f).b1 (snapshot f).b2 = f) ∧
    ∀ b0 b1 b2 : Byte, snapshot (frame24 b0 b1 b2) = ⟨b0, b1, b2⟩ ∧
      (frame24 b0 b1 b2).toNat = b0.toNat + 2 ^ 8 * b1.toNat + 2 ^ 16 * b2.toNat

/-- Decoding an encoded operation gives it back, for every operation and every operand (the encoding is the spec's own
choice D2, spec/30_encoding.md section 5). -/
def Obligations.DecodeEncodeRoundTrip : Prop :=
  ∀ i : Instr, i.wellFormed = true → decodeWord (encode i) = .ok i

/-- A command word whose ignored bits are 0 is the encoding of the operation it selects, and every such word selects one
(decision D2). -/
def Obligations.CanonicalWordsAreEncodings : Prop :=
  ∀ w : CmdWord, CmdWord.canonical w = true → ∃ i, decodeWord w = .ok i ∧ encode i = w

/-- Ignored ARG bits do not change the operation: two words with the same code that agree on the bits the code uses select
the same operation (decision D2). -/
def Obligations.IgnoredArgBitsDoNotMatter : Prop :=
  ∀ v w : CmdWord, opcField v = opcField w →
    argField v &&& usedArgBits (opcField w) = argField w &&& usedArgBits (opcField w) → decodeWord v = decodeWord w

/-- Words written out from the table of spec/30_encoding.md section 5 and from spec/95_test_vectors.md, one or more for
each family. -/
def Obligations.TableWordsDecode : Prop :=
  decodeTableWord 40 0x0DEADBEEF = some .capReset ∧ decodeTableWord 40 0x100000001 = some (.capBit true) ∧
    decodeTableWord 40 0x1FFFFFFFE = some (.capBit false) ∧
    decodeTableWord 40 0x4AB100064 = some (.decode 0x64#8 0x00#8 0x10#8) ∧
    decodeTableWord 40 0x6FFFFFFFB = some (.setNumber (BitVec.ofInt 32 (-5))) ∧
    decodeTableWord 40 0x7000C2238 = some (.setTime 12#8 34#8 56#8) ∧
    decodeTableWord 40 0x900123456 = some (.showHex 0x56#8 0x34#8 0x12#8) ∧
    decodeTableWord 40 0xD00000000 = some .muxTick ∧ decodeTableWord 40 0xE00000000 = none ∧
    decodeTableWord 40 0xF12345678 = none

/-- A step refuses exactly the command words with code 0xE or 0xF, by name (spec/30_encoding.md section 5, decision D17),
and answers a next state otherwise; it never faults. -/
def Obligations.OnlyReservedCodesAreRefused : Prop :=
  (∀ (s : State) (agent : Agent) (w : CmdWord) (rest : List Event), s.inbox = .command agent w :: rest →
    opcField w = 0xE#4 ∨ opcField w = 0xF#4 → step s = .refused (.reservedCommand (opcField w))) ∧
    ∀ s : State, (∀ (agent : Agent) (w : CmdWord) (rest : List Event), s.inbox = .command agent w :: rest →
      opcField w ≠ 0xE#4 ∧ opcField w ≠ 0xF#4) → ∃ t, step s = .next t

/-- FEED24 is its 24 bit operations, least significant bit first (spec/30_encoding.md section 6, decision D23). -/
def Obligations.Feed24IsTwentyFourBits : Prop :=
  ∀ (f : Frame) (s : State),
    pseudoRun (.feed24 f) s = execAll ((List.range 24).map fun k => Instr.capBit (f.getLsbD k)) s

/-! ### spec/43_mux.md (decision D14) -/

/-- MUX_TICK goes to the next slot, 5 wrapping to 0, and touches nothing else; its code (decisions D2 and D14). -/
def Obligations.MuxTickAdvancesScan : Prop :=
  (∀ w : CmdWord, opcField w = 0xD#4 → decodeWord w = .ok .muxTick) ∧
    ∀ s : State, ∃ t, exec .muxTick s = .next t ∧
      t.mux.muxIndex.val = (if s.mux.muxIndex.val = 5 then 0 else s.mux.muxIndex.val + 1) ∧
      t.capture = s.capture ∧ t.display = s.display ∧ t.resp = 0#64

/-- The scan outputs: the front buffer's slot `mux_index`, and a one-hot select (decision D14). -/
def Obligations.ScanOutputsShowFrontSlot : Prop :=
  ∀ s : State, s.segOut = s.display.front.get s.mux.muxIndex ∧
    ∀ j, j < 6 → (s.digSel.getLsbD j = true ↔ j = s.mux.muxIndex.val)

/-- Six ticks in a row come back to the same slot, having shown each slot once (decision D14): after k ticks the slot is
k places on. -/
def Obligations.TicksVisitSlotsInTurn : Prop :=
  ∀ (k : Nat) (s : State), ∃ t, execAll (List.replicate k Instr.muxTick) s = .next t ∧
    t.mux.muxIndex.val = (s.mux.muxIndex.val + k) % 6 ∧ t.display = s.display ∧ t.capture = s.capture

/-! ### spec/10_state.md: invariants, writers, hidden state -/

/-- Every step keeps the capture invariant of spec/10_state.md section 2, its two further facts with it. -/
def Obligations.CaptureInvariantKept : Prop :=
  ∀ s t : State, CaptureInv s.capture → step s = .next t → CaptureInv t.capture

/-- Every step keeps it: a clean display shows the image last composed (spec/10_state.md section 3). -/
def Obligations.DisplayInvariantKept : Prop :=
  ∀ s t : State, DisplayInv s.display → step s = .next t → DisplayInv t.display

/-- Both invariants hold right after reset. -/
def Obligations.ResetSatisfiesInvariants : Prop :=
  CaptureInv State.reset.capture ∧ DisplayInv State.reset.display

/-- The values the spec gives after hardware reset (spec/10_state.md section 6, decision D8). -/
def Obligations.ResetValues : Prop :=
  State.reset.capture.shiftRegister = 0#24 ∧ State.reset.capture.bitIndex = 0 ∧
    State.reset.capture.frameReady = false ∧
    (∀ i : Fin 6, State.reset.display.back.get i = 0x00#8 ∧ State.reset.display.front.get i = 0x00#8) ∧
    State.reset.display.dirty = true ∧ State.reset.mux.muxIndex = 0

/-- Which operations can change each group of the state (the writers of spec/10_state.md section 1): `raw_bytes` only by
the 24th accepted bit, the other three capture elements by CAP_RESET, DECODE and an accepted bit, `front_buffer` only by
DISP_INIT or by a REFRESH that copies `back_buffer`, `back_buffer` only by DISP_INIT and the formatting operations, `dirty`
set by those and cleared by REFRESH, `mux_index` only by MUX_TICK. -/
def Obligations.WritersOfEachElement : Prop :=
  ∀ (i : Instr) (s t : State), exec i s = .next t →
    (t.capture ≠ s.capture → i = .capReset ∨ (∃ b0 b1 b2, i = .decode b0 b1 b2) ∨
      ∃ bit, i = .capBit bit ∧ s.capture.frameReady = false) ∧
    (t.capture.rawBytes ≠ s.capture.rawBytes → ∃ bit, i = .capBit bit ∧ s.capture.bitIndex = 23) ∧
    (t.display.back ≠ s.display.back → i = .dispInit ∨ isFormatting i = true) ∧
    (t.display.front ≠ s.display.front → (i = .dispInit ∧ ∀ k : Fin 6, t.display.front.get k = blankGlyph) ∨
      (i = .refresh ∧ s.display.dirty = true ∧ t.display.front = s.display.back ∧ t.display.dirty = false)) ∧
    (t.display.dirty ≠ s.display.dirty →
      (t.display.dirty = true ∧ (i = .dispInit ∨ isFormatting i = true)) ∨ (t.display.dirty = false ∧ i = .refresh)) ∧
    (t.mux ≠ s.mux → i = .muxTick)

/-- No operation reads `shift_register` or `bit_index` out (spec/10_state.md section 7): two states that differ only in
them answer every operation alike and keep the same display and scan. For a CAP_RAW with no frame ready the equal answer is
the model's choice, the free value depending on its counter alone (log entry 6): the spec allows any u24 there. -/
def Obligations.ShiftRegisterAndIndexAreHidden : Prop :=
  ∀ (i : Instr) (s t : State) (f : Frame) (n : Nat), exec i s = .next t →
    ∃ u, exec i { s with capture := { s.capture with shiftRegister := f, bitIndex := n } } = .next u ∧
      u.resp = t.resp ∧ u.display = t.display ∧ u.mux = t.mux

/-- `back_buffer` is not exported (spec/10_state.md section 3, spec/70_reset_and_hazards.md section 2): whatever sequence of
operations without a REFRESH runs, two states that differ only in it answer the last operation alike, show the same
published image, scan outputs and level outputs, and again differ in nothing else. Every first part of a sequence is itself
one, so each operation of it is answered alike. For a CAP_RAW with no frame ready the equal answer is the model's choice
(log entry 6): the spec allows any u24 there. -/
def Obligations.BackBufferIsHiddenUntilRefresh : Prop :=
  ∀ (ops : List Instr) (s : State) (img : Image), Instr.refresh ∉ ops →
    ∃ t u, execAll ops s = .next t ∧ execAll ops { s with display := { s.display with back := img } } = .next u ∧
      u.resp = t.resp ∧ u.display.front = t.display.front ∧ u.segOut = t.segOut ∧ u.digSel = t.digSel ∧
      u.frameReadyOut = t.frameReadyOut ∧ u.dirtyOut = t.dirtyOut ∧
      u = { t with display := { t.display with back := u.display.back } }

/-! ### spec/20_memory.md and spec/60_exceptions.md: steps, order, agents -/

/-- A step takes the next event away and runs the operation its command word selects, whole (spec/20_memory.md sections
3 and 5, spec/00_scope.md section 5; the list of events is the model's, log entry 1). -/
def Obligations.StepRunsDecodedOperation : Prop :=
  ∀ (s : State) (agent : Agent) (w : CmdWord) (rest : List Event) (i : Instr),
    s.inbox = .command agent w :: rest → decodeWord w = .ok i → step s = exec i { s with inbox := rest }

/-- With no event presented the block stays as it is: the model's choice, log entry 2. -/
def Obligations.StepIdlesWithoutEvent : Prop :=
  ∀ s : State, s.inbox = [] → step s = .next s

/-- The hardware reset input (spec/70_reset_and_hazards.md section 1, decision D8; an event of the model's list, log
entry 10): the elements take their reset values in one step, `raw_bytes` is not written, and both invariants hold. -/
def Obligations.HardwareResetEffect : Prop :=
  ∀ (s : State) (rest : List Event), s.inbox = .hardwareReset :: rest →
    ∃ t, step s = .next t ∧ t.inbox = rest ∧
      CaptureCleared t.capture ∧ t.capture.rawBytes = s.capture.rawBytes ∧
      (∀ i : Fin 6, t.display.back.get i = 0x00#8 ∧ t.display.front.get i = 0x00#8) ∧ t.display.dirty = true ∧
      t.mux.muxIndex = 0 ∧ CaptureInv t.capture ∧ DisplayInv t.display

/-- Every operation completes from every state (spec/00_scope.md section 5, spec/60_exceptions.md section 1) and does not
touch the events still to come (the model's list, log entry 1). -/
def Obligations.EveryOperationCompletes : Prop :=
  ∀ (i : Instr) (s : State), ∃ t, exec i s = .next t ∧ t.inbox = s.inbox

/-- The block never halts (spec/70_reset_and_hazards.md section 4): while the events presented select operations, any
number of steps answers a next state, and each step takes one event, in order. The list of events is the model's (log
entry 1), and so is the idle step once it is empty (log entry 2). -/
def Obligations.RunNeverHalts : Prop :=
  ∀ (k : Nat) (s : State), (∀ e ∈ s.inbox, eventSelects e = true) →
    ∃ t : State, Host.Core.run Sys2Proof.core k s = .next t ∧ t.inbox = s.inbox.drop k

/-- The block does not tell agents apart (spec/60_exceptions.md section 4, decision D19). -/
def Obligations.AgentDoesNotMatter : Prop :=
  ∀ (s : State) (a b : Agent) (w : CmdWord) (rest : List Event),
    step { s with inbox := .command a w :: rest } = step { s with inbox := .command b w :: rest }

/-- The four queries change no element and repeat their answer (spec/20_memory.md section 3); of the others only DECODE
answers anything but 0 (R54, the spec's own decision D2). That a CAP_RAW with no frame ready repeats its answer is the
model's choice (log entry 6): the spec allows any u24 each time. -/
def Obligations.QueriesArePure : Prop :=
  (∀ (i : Instr) (s : State), isQuery i = true → ∃ t, exec i s = .next t ∧ SameElements s t ∧
    ∃ u, exec i t = .next u ∧ SameElements s u ∧ u.resp = t.resp) ∧
    ∀ (i : Instr) (s t : State), isQuery i = false → (∀ b0 b1 b2, i ≠ .decode b0 b1 b2) → exec i s = .next t →
      t.resp = 0#64

/-- Which operations are idempotent (spec/20_memory.md section 3): all but MUX_TICK and a CAP_BIT that is accepted. -/
def Obligations.IdempotentOperations : Prop :=
  ∀ (i : Instr) (s t u : State), exec i s = .next t → exec i t = .next u →
    if i = .muxTick then u.mux ≠ t.mux
    else if (∃ bit, i = .capBit bit) ∧ t.capture.frameReady = false then
      u.capture.bitIndex = t.capture.bitIndex + 1
    else SameElements t u

/-- The orders of simultaneous events that spec/60_exceptions.md section 2 works out (decision D9): the 24th bit and
CAP_READY; a bit and DECODE while a frame waits; a bit and CAP_RESET; a formatting operation and REFRESH. -/
def Obligations.SimultaneousEventOrders : Prop :=
  (∀ (s : State) (bit : Bool), s.capture.frameReady = false → s.capture.bitIndex = 23 →
    (∃ t, execAll [.capBit bit, .capReady] s = .next t ∧ t.resp = 1#64) ∧ ∃ t, exec .capReady s = .next t ∧ t.resp = 0#64) ∧
    (∀ (s : State) (bit : Bool) (b0 b1 b2 : Byte), s.capture.frameReady = true →
      (∃ t, execAll [.capBit bit, .decode b0 b1 b2] s = .next t ∧ CaptureCleared t.capture) ∧
      ∃ t, execAll [.decode b0 b1 b2, .capBit bit] s = .next t ∧ t.capture.bitIndex = 1 ∧
        t.capture.shiftRegister = (BitVec.ofBool bit).zeroExtend 24) ∧
    (∀ (s : State) (bit : Bool),
      (∃ t, execAll [.capBit bit, .capReset] s = .next t ∧ t.capture.bitIndex = 0) ∧
      ∃ t, execAll [.capReset, .capBit bit] s = .next t ∧ t.capture.bitIndex = 1) ∧
    ∀ (s : State) (i : Instr), isFormatting i = true → ∃ f, exec i s = .next f ∧
      (∃ t, execAll [i, .refresh] s = .next t ∧ t.display.front = f.display.back ∧ t.display.dirty = false) ∧
      ∃ t, execAll [.refresh, i] s = .next t ∧ t.display.back = f.display.back ∧ t.display.dirty = true ∧
        t.display.front = if s.display.dirty then s.display.back else s.display.front

/-- The frame handoff under the agents' contract (spec/20_memory.md section 5, spec/60_exceptions.md section 4): while a
frame waits, no operation the bit source or the transport issues ends that or changes the frame. -/
def Obligations.WaitingFrameSafeFromBitAndTransport : Prop :=
  ∀ (s t : State) (agent : Agent) (w : CmdWord) (rest : List Event),
    s.inbox = .command agent w :: rest → eventObeysContract (.command agent w) = true →
    agent = .bit ∨ agent = .xport → s.capture.frameReady = true → step s = .next t → t.capture = s.capture

/-- The level outputs are the flags, and the queries read the same values (spec/60_exceptions.md section 2, decision
D16). -/
def Obligations.LevelOutputsAreTheFlags : Prop :=
  ∀ s : State, s.frameReadyOut = s.capture.frameReady ∧ s.dirtyOut = s.display.dirty ∧
    (∃ t, exec .capReady s = .next t ∧ (t.resp = 1#64 ↔ s.frameReadyOut = true)) ∧
    ∃ t, exec .needsUpdate s = .next t ∧ (t.resp = 1#64 ↔ s.dirtyOut = true)

/-! ### spec/70_reset_and_hazards.md: start-up and hazards -/

/-- The start-up sequence (section 1): from any state whatever, CAP_RESET and DISP_INIT in either order leave capture
state 0, a blank display with `dirty` true, both invariants, and the same elements. -/
def Obligations.StartupFromAnyState : Prop :=
  ∀ s : State, ∃ t u, execAll [.capReset, .dispInit] s = .next t ∧ execAll [.dispInit, .capReset] s = .next u ∧
    SameElements t u ∧ CaptureCleared t.capture ∧ CaptureInv t.capture ∧ DisplayInv t.display ∧
    (∀ i : Fin 6, t.display.back.get i = blankGlyph ∧ t.display.front.get i = blankGlyph) ∧ t.display.dirty = true

/-- The power-on contents of `raw_bytes` are never observed (section 1): two states that differ only in them, no frame
being ready, answer every sequence of operations alike, and show the same display and scan. The spec promises equal answers
to a caller that checks `frame_ready` first; that a CAP_RAW with no frame ready answers alike too is the model's choice, the
free value depending on its counter and not on `raw_bytes` (log entry 6). -/
def Obligations.PowerOnRawBytesUnobservable : Prop :=
  ∀ (ops : List Instr) (s : State) (raw : RawBytes), s.capture.frameReady = false →
    ∃ t u, execAll ops s = .next t ∧
      execAll ops { s with capture := { s.capture with rawBytes := raw } } = .next u ∧
      u.resp = t.resp ∧ u.display = t.display ∧ u.mux = t.mux ∧
      u.capture.frameReady = t.capture.frameReady ∧ u.capture.bitIndex = t.capture.bitIndex ∧
      u.capture.shiftRegister = t.capture.shiftRegister ∧
      (t.capture.frameReady = true → u.capture.rawBytes = t.capture.rawBytes)

/-- Resynchronisation (section 2): from any state, CAP_RESET and then the 24 bits of a frame capture exactly that frame,
and CAP_RAW answers it. -/
def Obligations.ResetThenFrameIsCaptured : Prop :=
  ∀ (s : State) (f : Frame), ∃ r t u, exec .capReset s = .next r ∧ pseudoRun (.feed24 f) r = .next t ∧
    t.capture.frameReady = true ∧ t.capture.shiftRegister = f ∧
    t.capture.rawBytes = ⟨f.extractLsb' 0 8, f.extractLsb' 8 8, f.extractLsb' 16 8⟩ ∧ t.display = s.display ∧
    exec .capRaw t = .next u ∧ u.resp = f.zeroExtend 64

/-- Loss of alignment (section 2): a frame waits; the first bits of the next frame `g` are dropped; after DECODE the rest
of `g` and as many first bits of the frame `h` after it fill the machine, and the snapshot is their mixture. -/
def Obligations.LateDecodeMisalignsFrames : Prop :=
  ∀ (s : State) (early late next : List Bool) (b0 b1 b2 : Byte), s.capture.frameReady = true →
    1 ≤ early.length → early.length ≤ 23 → early.length + late.length = 24 → next.length = early.length →
    ∃ t, execAll
        (early.map Instr.capBit ++ [Instr.decode b0 b1 b2] ++ late.map Instr.capBit ++ next.map Instr.capBit) s =
          .next t ∧
      t.capture.frameReady = true ∧
      ∀ i, i < 24 → (t.capture.rawBytes.b2 ++ t.capture.rawBytes.b1 ++ t.capture.rawBytes.b0).getLsbD i =
        if i < late.length then late.getD i false else next.getD (i - late.length) false

/-- SHOW_MEASUREMENT of a waiting frame (spec/30_encoding.md section 6, its DECODE by spec/41_decoder.md sections 1 and 2,
its SHOW_UM by spec/42_display.md section 2, corner case f):
the image shows the digits of the magnitude counter, at least three, with the point on slot 2, and the minus directly above
them where the sign flag is set and the magnitude is not 0; it never overflows and never loses a digit; and the capture
machine is free again. The three slots written for a magnitude below 100 are the spec's own decision D13 (log entry 12). -/
def Obligations.MeasurementIsShownInFull : Prop :=
  ∀ s : State, s.capture.frameReady = true →
    ∃ t, pseudoRun .showMeasurement s = .next t ∧ CaptureCleared t.capture ∧ t.display.dirty = true ∧
      t.display.front = s.display.front ∧ t.mux = s.mux ∧
      ∀ (mag : Nat) (digits : List Nat),
        mag = s.capture.rawBytes.b0.toNat + 256 * s.capture.rawBytes.b1.toNat → digits = Nat.digits 10 mag →
        digits.length ≤ 5 ∧ ∀ i : Fin 6, t.display.back.get i =
          if i.val < max 3 digits.length then
            (if i = 2 then lowDigit (digits.getD 2 0) ||| 0x80#8 else lowDigit (digits.getD i.val 0))
          else if s.capture.rawBytes.b2.getLsbD 4 = true ∧ mag ≠ 0 ∧ i.val = max 3 digits.length then minusGlyph
          else blankGlyph
end

