-- ==== Sys2Proof/Laws/Decode.lean ====
section
/-! SUPPORT. The fields of an encoded command word read back (spec/30_encoding.md R52, R53). -/

namespace Sys2Proof

theorem opcField_cmdWord (opc : BitVec 4) (arg : BitVec 32) : opcField (cmdWord opc arg) = opc := by
  apply BitVec.eq_of_getLsbD_eq
  intro i hi
  simp only [opcField, cmdWord, BitVec.getLsbD_extractLsb', BitVec.getLsbD_append]
  simp [hi, show ¬ 32 + i < 32 by omega]

theorem argField_cmdWord (opc : BitVec 4) (arg : BitVec 32) : argField (cmdWord opc arg) = arg := by
  apply BitVec.eq_of_getLsbD_eq
  intro i hi
  simp only [argField, cmdWord, BitVec.getLsbD_extractLsb', BitVec.getLsbD_append]
  simp [hi]

/-- Byte k of ARG is byte k of the word (R53). -/
theorem argByte_argField (w : CmdWord) (k : Nat) (hk : k < 4) : argByte (argField w) k = w.extractLsb' (8 * k) 8 := by
  apply BitVec.eq_of_getLsbD_eq
  intro i hi
  simp only [argByte, argField, BitVec.getLsbD_extractLsb', Nat.zero_add]
  simp [hi, show 8 * k + i < 32 by omega]

/-- Which bit of which byte an ARG of three bytes holds at each position (R53). -/
theorem argOfBytes_getLsbD (hi mid lo : Byte) (i : Nat) :
    (argOfBytes hi mid lo).getLsbD i =
      if i < 8 then lo.getLsbD i
      else if i < 16 then mid.getLsbD (i - 8)
      else hi.getLsbD (i - 16) := by
  simp only [argOfBytes, BitVec.getLsbD_append]
  by_cases h0 : i < 8
  · simp [h0]
  · by_cases h1 : i < 16
    · simp [h0, h1, show i - 8 < 8 by omega]
    · by_cases h2 : i < 24
      · have h3 : i - 8 - 8 = i - 16 := by omega
        simp only [h0, h1, show ¬ i - 8 < 8 by omega, h3, show i - 16 < 8 by omega, if_true, if_false]
      · have : hi.getLsbD (i - 16) = false := BitVec.getLsbD_of_ge _ _ (by omega)
        simp [h0, h1, show ¬ i - 8 < 8 by omega, show ¬ i - 8 - 8 < 8 by omega, this]

/-- The three bytes of an ARG read back (R53). -/
theorem argByte_argOfBytes (hi mid lo : Byte) :
    argByte (argOfBytes hi mid lo) 0 = lo ∧ argByte (argOfBytes hi mid lo) 1 = mid ∧
      argByte (argOfBytes hi mid lo) 2 = hi := by
  refine ⟨?_, ?_, ?_⟩ <;> apply BitVec.eq_of_getLsbD_eq <;> intro i h <;>
    simp only [argByte, BitVec.getLsbD_extractLsb', argOfBytes_getLsbD, h, decide_true, Bool.true_and]
  · rw [if_pos (by omega)]
    congr 1
    omega
  · rw [if_neg (by omega), if_pos (by omega)]
    congr 1
    omega
  · rw [if_neg (by omega), if_neg (by omega)]
    congr 1
    omega

end Sys2Proof
end

