-- ==== Sys2Proof/Laws/State.lean ====
section
/-! SUPPORT. One lemma per field and update of the state, and the spec lemma of each shared operation over it. -/

namespace Sys2Proof.Machine

section respond
variable (s : State) (v : Resp)
@[simp] theorem respond_capture : (s.respond v).capture = s.capture := rfl
@[simp] theorem respond_display : (s.respond v).display = s.display := rfl
@[simp] theorem respond_mux : (s.respond v).mux = s.mux := rfl
@[simp] theorem respond_resp : (s.respond v).resp = v := rfl
@[simp] theorem respond_inbox : (s.respond v).inbox = s.inbox := rfl
@[simp] theorem respond_freeCount : (s.respond v).freeCount = s.freeCount := rfl
end respond

section clearCapture
variable (s : State)
@[simp] theorem clearCapture_shiftRegister : s.clearCapture.capture.shiftRegister = 0#24 := rfl
@[simp] theorem clearCapture_bitIndex : s.clearCapture.capture.bitIndex = 0 := rfl
@[simp] theorem clearCapture_frameReady : s.clearCapture.capture.frameReady = false := rfl
@[simp] theorem clearCapture_rawBytes : s.clearCapture.capture.rawBytes = s.capture.rawBytes := rfl
@[simp] theorem clearCapture_display : s.clearCapture.display = s.display := rfl
@[simp] theorem clearCapture_mux : s.clearCapture.mux = s.mux := rfl
@[simp] theorem clearCapture_resp : s.clearCapture.resp = s.resp := rfl
@[simp] theorem clearCapture_inbox : s.clearCapture.inbox = s.inbox := rfl
@[simp] theorem clearCapture_freeCount : s.clearCapture.freeCount = s.freeCount + 1 := rfl
end clearCapture

section acceptBit
variable (bit : Bool) (s : State)
@[simp] theorem acceptBit_shiftRegister :
    (s.acceptBit bit).capture.shiftRegister = setBit s.capture.shiftRegister s.capture.bitIndex bit := rfl
@[simp] theorem acceptBit_bitIndex : (s.acceptBit bit).capture.bitIndex = s.capture.bitIndex + 1 := rfl
@[simp] theorem acceptBit_frameReady :
    (s.acceptBit bit).capture.frameReady =
      if frameComplete (s.capture.bitIndex + 1) then true else s.capture.frameReady := rfl
@[simp] theorem acceptBit_rawBytes :
    (s.acceptBit bit).capture.rawBytes =
      if frameComplete (s.capture.bitIndex + 1) then
        snapshot (setBit s.capture.shiftRegister s.capture.bitIndex bit)
      else s.capture.rawBytes := rfl
@[simp] theorem acceptBit_display : (s.acceptBit bit).display = s.display := rfl
@[simp] theorem acceptBit_mux : (s.acceptBit bit).mux = s.mux := rfl
@[simp] theorem acceptBit_resp : (s.acceptBit bit).resp = s.resp := rfl
@[simp] theorem acceptBit_inbox : (s.acceptBit bit).inbox = s.inbox := rfl
@[simp] theorem acceptBit_freeCount : (s.acceptBit bit).freeCount = s.freeCount + 1 := rfl
end acceptBit

section compose
variable (img : Image) (s : State)
@[simp] theorem compose_capture : (s.compose img).capture = s.capture := rfl
@[simp] theorem compose_back : (s.compose img).display.back = img := rfl
@[simp] theorem compose_front : (s.compose img).display.front = s.display.front := rfl
@[simp] theorem compose_dirty : (s.compose img).display.dirty = true := rfl
@[simp] theorem compose_mux : (s.compose img).mux = s.mux := rfl
@[simp] theorem compose_resp : (s.compose img).resp = s.resp := rfl
@[simp] theorem compose_inbox : (s.compose img).inbox = s.inbox := rfl
@[simp] theorem compose_freeCount : (s.compose img).freeCount = s.freeCount + 1 := rfl
end compose

section initDisplay
variable (s : State)
@[simp] theorem initDisplay_capture : s.initDisplay.capture = s.capture := rfl
@[simp] theorem initDisplay_back : s.initDisplay.display.back = Image.fill blankGlyph := rfl
@[simp] theorem initDisplay_front : s.initDisplay.display.front = Image.fill blankGlyph := rfl
@[simp] theorem initDisplay_dirty : s.initDisplay.display.dirty = true := rfl
@[simp] theorem initDisplay_mux : s.initDisplay.mux = s.mux := rfl
@[simp] theorem initDisplay_resp : s.initDisplay.resp = s.resp := rfl
@[simp] theorem initDisplay_inbox : s.initDisplay.inbox = s.inbox := rfl
@[simp] theorem initDisplay_freeCount : s.initDisplay.freeCount = s.freeCount + 1 := rfl
end initDisplay

section publish
variable (s : State)

/-- All a refresh can do (R76): it copies and clears a dirty display, and leaves a clean state whole. -/
theorem publish_cases :
    (s.display.dirty = true ∧
        s.publish =
          { s with
            display := { back := s.display.back, front := s.display.back, dirty := false }
            freeCount := s.freeCount + 1 }) ∨
      (s.display.dirty = false ∧ s.publish = s) := by
  unfold State.publish
  split <;> simp_all

theorem publish_of_clean (h : s.display.dirty = false) : s.publish = s := by simp [State.publish, h]
@[simp] theorem publish_capture : s.publish.capture = s.capture := by unfold State.publish; split <;> rfl
@[simp] theorem publish_mux : s.publish.mux = s.mux := by unfold State.publish; split <;> rfl
@[simp] theorem publish_resp : s.publish.resp = s.resp := by unfold State.publish; split <;> rfl
@[simp] theorem publish_inbox : s.publish.inbox = s.inbox := by unfold State.publish; split <;> rfl
@[simp] theorem publish_back : s.publish.display.back = s.display.back := by unfold State.publish; split <;> rfl
@[simp] theorem publish_dirty : s.publish.display.dirty = false := by unfold State.publish; split <;> simp_all
@[simp] theorem publish_front :
    s.publish.display.front = if s.display.dirty then s.display.back else s.display.front := by
  unfold State.publish; split <;> rfl
end publish

section scanNext
variable (s : State)
@[simp] theorem scanNext_capture : s.scanNext.capture = s.capture := rfl
@[simp] theorem scanNext_display : s.scanNext.display = s.display := rfl
@[simp] theorem scanNext_muxIndex :
    s.scanNext.mux.muxIndex = if s.mux.muxIndex = 5 then 0 else s.mux.muxIndex + 1 := rfl
@[simp] theorem scanNext_resp : s.scanNext.resp = s.resp := rfl
@[simp] theorem scanNext_inbox : s.scanNext.inbox = s.inbox := rfl
@[simp] theorem scanNext_freeCount : s.scanNext.freeCount = s.freeCount + 1 := rfl
end scanNext

section hardwareReset
variable (s : State)
@[simp] theorem hardwareReset_capture : s.hardwareReset.capture = s.clearCapture.capture := rfl
@[simp] theorem hardwareReset_display : s.hardwareReset.display = s.initDisplay.display := rfl
@[simp] theorem hardwareReset_muxIndex : s.hardwareReset.mux.muxIndex = 0 := rfl
@[simp] theorem hardwareReset_resp : s.hardwareReset.resp = s.resp := rfl
@[simp] theorem hardwareReset_inbox : s.hardwareReset.inbox = s.inbox := rfl
end hardwareReset

section rawAnswer
variable (s : State)
theorem rawAnswer_of_ready (h : s.capture.frameReady = true) :
    s.rawAnswer = frame24 s.capture.rawBytes.b0 s.capture.rawBytes.b1 s.capture.rawBytes.b2 := by
  simp [State.rawAnswer, h]
theorem rawAnswer_of_not_ready (h : s.capture.frameReady = false) : s.rawAnswer = Config.staleRaw s.freeCount := by
  simp [State.rawAnswer, h]
end rawAnswer

section takeEvent
variable (s : State)
theorem takeEvent_of_empty (h : s.inbox = []) : s.takeEvent = none := by simp [State.takeEvent, h]
theorem takeEvent_of_cons {e : Event} {rest : List Event} (h : s.inbox = e :: rest) :
    s.takeEvent = some (e, { s with inbox := rest }) := by simp [State.takeEvent, h]
end takeEvent

end Sys2Proof.Machine
end

