-- ==== Sys2Proof/Laws/Exec.lean ====
section
/-! SUPPORT. What each operation answers, as one equation each: later proofs rewrite with these instead of unfolding. -/

namespace Sys2Proof.Machine

variable (s : State)

@[simp] theorem exec_capReset : exec .capReset s = .next (s.clearCapture.respond 0#64) := rfl
theorem exec_capBit_ready (bit : Bool) (h : s.capture.frameReady = true) :
    exec (.capBit bit) s = .next (s.respond 0#64) := by simp [exec, execCapBit, h]
theorem exec_capBit_accepting (bit : Bool) (h : s.capture.frameReady = false) :
    exec (.capBit bit) s = .next ((s.acceptBit bit).respond 0#64) := by simp [exec, execCapBit, h]
@[simp] theorem exec_capReady : exec .capReady s = .next (s.respond (flagResp s.capture.frameReady)) := rfl
@[simp] theorem exec_capRaw : exec .capRaw s = .next (s.respond (frameResp s.rawAnswer)) := rfl
@[simp] theorem exec_decode (b0 b1 b2 : Byte) :
    exec (.decode b0 b1 b2) s = .next (s.clearCapture.respond (measurementResp (decodeFrame b0 b1 b2))) := rfl
@[simp] theorem exec_dispInit : exec .dispInit s = .next (s.initDisplay.respond 0#64) := rfl
@[simp] theorem exec_setNumber (value : I32) :
    exec (.setNumber value) s = .next ((s.compose (numberImage value)).respond 0#64) := rfl
@[simp] theorem exec_setTime (h m sec : Byte) :
    exec (.setTime h m sec) s = .next ((s.compose (timeImage h m sec)).respond 0#64) := rfl
@[simp] theorem exec_showUm (value : I32) :
    exec (.showUm value) s = .next ((s.compose (micrometreImage value)).respond 0#64) := rfl
@[simp] theorem exec_showHex (b0 b1 b2 : Byte) :
    exec (.showHex b0 b1 b2) s = .next ((s.compose (hexImage b0 b1 b2)).respond 0#64) := rfl
@[simp] theorem exec_refresh : exec .refresh s = .next (s.publish.respond 0#64) := rfl
@[simp] theorem exec_getFront : exec .getFront s = .next (s.respond (imageResp s.display.front)) := rfl
@[simp] theorem exec_needsUpdate : exec .needsUpdate s = .next (s.respond (flagResp s.display.dirty)) := rfl
@[simp] theorem exec_muxTick : exec .muxTick s = .next (s.scanNext.respond 0#64) := rfl

/-- All an operation can do, by its effect on the state: the capture reset, a bit accepted, a new image, a display
initialisation, a refresh, a scan step, or nothing but a response. -/
theorem exec_inversion {i : Instr} {t : State} (h : exec i s = .next t) :
    (∃ v, t = s.clearCapture.respond v) ∨
      (∃ bit, i = .capBit bit ∧ s.capture.frameReady = false ∧ t = (s.acceptBit bit).respond 0#64) ∨
      (∃ img, t = (s.compose img).respond 0#64) ∨
      (i = .dispInit ∧ t = s.initDisplay.respond 0#64) ∨
      (i = .refresh ∧ t = s.publish.respond 0#64) ∨
      (i = .muxTick ∧ t = s.scanNext.respond 0#64) ∨
      ∃ v, t = s.respond v := by
  cases i with
  | capBit bit =>
    cases hr : s.capture.frameReady with
    | true =>
      rw [exec_capBit_ready s bit hr] at h
      injection h with h
      exact .inr (.inr (.inr (.inr (.inr (.inr ⟨0#64, h.symm⟩)))))
    | false =>
      rw [exec_capBit_accepting s bit hr] at h
      injection h with h
      exact .inr (.inl ⟨bit, rfl, rfl, h.symm⟩)
  | capReset => injection h with h; exact .inl ⟨_, h.symm⟩
  | decode b0 b1 b2 => injection h with h; exact .inl ⟨_, h.symm⟩
  | dispInit => injection h with h; exact .inr (.inr (.inr (.inl ⟨rfl, h.symm⟩)))
  | refresh => injection h with h; exact .inr (.inr (.inr (.inr (.inl ⟨rfl, h.symm⟩))))
  | muxTick => injection h with h; exact .inr (.inr (.inr (.inr (.inr (.inl ⟨rfl, h.symm⟩)))))
  | setNumber value => injection h with h; exact .inr (.inr (.inl ⟨_, h.symm⟩))
  | setTime hh m sec => injection h with h; exact .inr (.inr (.inl ⟨_, h.symm⟩))
  | showUm value => injection h with h; exact .inr (.inr (.inl ⟨_, h.symm⟩))
  | showHex b0 b1 b2 => injection h with h; exact .inr (.inr (.inl ⟨_, h.symm⟩))
  | capReady => injection h with h; exact .inr (.inr (.inr (.inr (.inr (.inr ⟨_, h.symm⟩)))))
  | capRaw => injection h with h; exact .inr (.inr (.inr (.inr (.inr (.inr ⟨_, h.symm⟩)))))
  | getFront => injection h with h; exact .inr (.inr (.inr (.inr (.inr (.inr ⟨_, h.symm⟩)))))
  | needsUpdate => injection h with h; exact .inr (.inr (.inr (.inr (.inr (.inr ⟨_, h.symm⟩)))))

end Sys2Proof.Machine
end

