-- ==== Sys2Proof/Laws/Operands.lean ====
section
/-! SUPPORT. The spec lemmas of the pure functions: bit storage, frame packing, images and the digit loop. -/

namespace Sys2Proof.Machine

/-- `frame_ready` is set exactly at the 24th bit (R14). -/
@[simp] theorem frameComplete_eq (n : Nat) : frameComplete n = decide (n = 24) := rfl

/-- Storing a bit (R60): the named position takes it, every other position keeps its own. -/
theorem setBit_getLsbD (frame : Frame) (i j : Nat) (bit : Bool) (hj : j < 24) :
    (setBit frame i bit).getLsbD j = if j = i then bit else frame.getLsbD j := by
  rcases Nat.lt_trichotomy j i with h | h | h
  · have h' : j ≠ i := by omega
    simp [setBit, h, h', hj]
  · subst h
    cases bit <;> simp [setBit, hj]
  · have h' : j ≠ i := by omega
    have h1 : ¬ j < i := by omega
    have h2 : j - i ≠ 0 := by omega
    simp [setBit, h1, h', h2, hj]

/-- Reassembly undoes packing (R44, R45). -/
theorem frame24_snapshot (frame : Frame) :
    frame24 (snapshot frame).b0 (snapshot frame).b1 (snapshot frame).b2 = frame := by
  apply BitVec.eq_of_getLsbD_eq
  intro i hi
  simp only [frame24, snapshot, BitVec.getLsbD_append, BitVec.getLsbD_extractLsb']
  by_cases h0 : i < 8
  · simp [h0]
  · by_cases h1 : i < 16
    · have : i - 8 < 8 := by omega
      have h' : 8 + (i - 8) = i := by omega
      simp [h0, this, h']
    · have h2 : ¬ i - 8 < 8 := by omega
      have h3 : i - 8 - 8 < 8 := by omega
      have h' : 16 + (i - 8 - 8) = i := by omega
      simp [h0, h2, h3, h']

@[simp] theorem fill_get (pattern : Byte) (i : Fin 6) : (Image.fill pattern).get i = pattern := by
  fin_cases i <;> rfl

/-- Writing a slot (R7): the named slot takes the pattern, every other slot keeps its own. -/
theorem set_get (img : Image) (i : Nat) (pattern : Byte) (j : Fin 6) :
    (img.set i pattern).get j = if j.val = i then pattern else img.get j := by
  rcases i with _ | _ | _ | _ | _ | _ | i <;> fin_cases j <;> simp [Image.set, Image.get]

/-- Two images with the same six slots are the same image. -/
theorem image_ext {a b : Image} (h : ∀ i : Fin 6, a.get i = b.get i) : a = b := by
  have h0 := h 0
  have h1 := h 1
  have h2 := h 2
  have h3 := h 3
  have h4 := h 4
  have h5 := h 5
  cases a
  cases b
  simp_all [Image.get]

@[simp] theorem writeDigits_nothing_left (free i : Nat) (img : Image) : writeDigits free i 0 img = ⟨img, i, 0⟩ := by
  cases free <;> simp [writeDigits]

theorem writeDigits_step (free i n : Nat) (img : Image) (h : n ≠ 0) :
    writeDigits (free + 1) i n img = writeDigits free (i + 1) (n / 10) (img.set i (lowDigit n)) := by
  simp [writeDigits, h]

/-- The loop never leaves the slots it was given. -/
theorem writeDigits_nextSlot_le (free i n : Nat) (img : Image) : (writeDigits free i n img).nextSlot ≤ i + free := by
  induction free generalizing i n img with
  | zero => simp [writeDigits]
  | succ free ih =>
    by_cases h : n = 0
    · simp [h]
    · rw [writeDigits_step free i n img h]
      exact (ih _ _ _).trans (by omega)

theorem abs32_le (v : I32) : abs32 v ≤ 2 ^ 31 := by
  have h1 := BitVec.le_toInt v
  have h2 := BitVec.toInt_lt (x := v)
  unfold abs32
  simp at h1 h2
  omega

end Sys2Proof.Machine
end

