-- ==== Sys2Proof/Laws/PerInstr.lean ====
section
/-! SUPPORT. Per operation: its encoded word selects an operation and leaves every ignored ARG bit 0
(spec/30_encoding.md R53, R55). -/

namespace Sys2Proof.Laws.EncodedWord

theorem canonical_cmdWord (opc : BitVec 4) (arg : BitVec 32) (hopc : opc.toNat ≤ 0xD)
    (harg : arg &&& ~~~(usedArgBits opc) = 0) : CmdWord.canonical (cmdWord opc arg) = true := by
  have h1 : (cmdWord opc arg).extractLsb' 32 4 = opc := opcField_cmdWord opc arg
  have h2 : (cmdWord opc arg).extractLsb' 0 32 = arg := argField_cmdWord opc arg
  unfold CmdWord.canonical CmdWord.selects
  rw [h1, h2, harg]
  simpa using hopc

theorem argOfBytes_high_zero (hi mid lo : Byte) : argOfBytes hi mid lo &&& ~~~0x00FFFFFF#32 = 0 := by
  apply BitVec.eq_of_getLsbD_eq
  intro i hi'
  rw [BitVec.getLsbD_and, argOfBytes_getLsbD, show (0 : BitVec 32).getLsbD i = false by simp]
  by_cases h : i < 24
  · have h' : (~~~0x00FFFFFF#32).getLsbD i = false := by
      interval_cases i <;> rfl
    rw [h', Bool.and_false]
  · have : hi.getLsbD (i - 16) = false := BitVec.getLsbD_of_ge _ _ (by omega)
    simp [show ¬ i < 8 by omega, show ¬ i < 16 by omega, this]

/-- The operation's word selects an operation and its ignored ARG bits are 0. -/
def Statement (i : Instr) : Prop := CmdWord.canonical (encode i) = true

theorem capReset : Statement .capReset := by unfold Statement; decide
theorem capBit (bit : Bool) : Statement (.capBit bit) := by unfold Statement; cases bit <;> decide
theorem capReady : Statement .capReady := by unfold Statement; decide
theorem capRaw : Statement .capRaw := by unfold Statement; decide
theorem decode (b0 b1 b2 : Byte) : Statement (.decode b0 b1 b2) :=
  canonical_cmdWord _ _ (by decide) (argOfBytes_high_zero b2 b1 b0)
theorem dispInit : Statement .dispInit := by unfold Statement; decide
theorem setNumber (value : I32) : Statement (.setNumber value) :=
  canonical_cmdWord _ _ (by decide) (by simp [usedArgBits])
theorem setTime (hours minutes seconds : Byte) : Statement (.setTime hours minutes seconds) :=
  canonical_cmdWord _ _ (by decide) (argOfBytes_high_zero hours minutes seconds)
theorem showUm (valueUm : I32) : Statement (.showUm valueUm) :=
  canonical_cmdWord _ _ (by decide) (by simp [usedArgBits])
theorem showHex (b0 b1 b2 : Byte) : Statement (.showHex b0 b1 b2) :=
  canonical_cmdWord _ _ (by decide) (argOfBytes_high_zero b2 b1 b0)
theorem refresh : Statement .refresh := by unfold Statement; decide
theorem getFront : Statement .getFront := by unfold Statement; decide
theorem needsUpdate : Statement .needsUpdate := by unfold Statement; decide
theorem muxTick : Statement .muxTick := by unfold Statement; decide

end Sys2Proof.Laws.EncodedWord
end

