-- ==== Sys2Proof/Laws/Step.lean ====
section
/-! SUPPORT. All a step can do: idle, reset, run the decoded operation, or refuse a reserved code. -/

namespace Sys2Proof.Machine

theorem step_of_empty (s : State) (h : s.inbox = []) : step s = .next s := by
  simp [step, takeEvent_of_empty s h]

theorem step_of_cons (s : State) {e : Event} {rest : List Event} (h : s.inbox = e :: rest) :
    step s = applyEvent e { s with inbox := rest } := by
  simp [step, takeEvent_of_cons s h]

/-- A run goes on from the state its first step answers. -/
theorem run_of_next {s t : State} (h : step s = .next t) (k : Nat) :
    Host.Core.run Sys2Proof.core (k + 1) s = Host.Core.run Sys2Proof.core k t := by
  have h' : Sys2Proof.core.step s = .next t := h
  simp only [Host.Core.run, h']

/-- A step that answers a next state idled, reset, or ran one operation on the state without the event. -/
theorem step_inversion {s t : State} (h : step s = .next t) :
    (s.inbox = [] ∧ t = s) ∨
      (∃ rest, s.inbox = .hardwareReset :: rest ∧ t = State.hardwareReset { s with inbox := rest }) ∨
      ∃ agent word rest i, s.inbox = .command agent word :: rest ∧ decodeWord word = .ok i ∧
        exec i { s with inbox := rest } = .next t := by
  cases hi : s.inbox with
  | nil =>
    rw [step_of_empty s hi] at h
    injection h with h
    exact .inl ⟨rfl, h.symm⟩
  | cons e rest =>
    rw [step_of_cons s hi] at h
    cases e with
    | hardwareReset =>
      injection h with h
      exact .inr (.inl ⟨rest, rfl, h.symm⟩)
    | command agent word =>
      cases hd : decodeWord word with
      | ok i =>
        simp only [applyEvent, hd] at h
        exact .inr (.inr ⟨agent, word, rest, i, rfl, hd, h⟩)
      | error e =>
        cases e with
        | reservedOpcode opc =>
          simp only [applyEvent, hd] at h
          cases h

end Sys2Proof.Machine
end

