-- ==== Sys2Proof/Machine/Text.lean ====
section
/-! DEFINITION. The text form of an operation (spec/30_encoding.md R57): one a line, `agent: MNEMONIC operands -> value ;
comment`. It adds nothing to `step`. Log entry 16. -/

namespace Sys2Proof.Machine

/-- The mnemonic, as the opcode table spells it (R55). -/
def instrMnemonic : Instr → String
  | .capReset => "CAP_RESET"
  | .capBit _ => "CAP_BIT"
  | .capReady => "CAP_READY"
  | .capRaw => "CAP_RAW"
  | .decode _ _ _ => "DECODE"
  | .dispInit => "DISP_INIT"
  | .setNumber _ => "SET_NUMBER"
  | .setTime _ _ _ => "SET_TIME"
  | .showUm _ => "SHOW_UM"
  | .showHex _ _ _ => "SHOW_HEX"
  | .refresh => "REFRESH"
  | .getFront => "GET_FRONT"
  | .needsUpdate => "NEEDS_UPDATE"
  | .muxTick => "MUX_TICK"

/-- The operands in the order a line writes them (R57). -/
def instrOperands : Instr → List Int
  | .capReset => []
  | .capBit bit => [if bit then 1 else 0]
  | .capReady => []
  | .capRaw => []
  | .decode b0 b1 b2 => [b0.toNat, b1.toNat, b2.toNat]
  | .dispInit => []
  | .setNumber value => [value.toInt]
  | .setTime hours minutes seconds => [hours.toNat, minutes.toNat, seconds.toNat]
  | .showUm valueUm => [valueUm.toInt]
  | .showHex b0 b1 b2 => [b0.toNat, b1.toNat, b2.toNat]
  | .refresh => []
  | .getFront => []
  | .needsUpdate => []
  | .muxTick => []

/-- The prefix that names an agent, without its colon (R57). -/
def agentText : Agent → String
  | .bit => "bit"
  | .main => "main"
  | .tmo => "tmo"
  | .xport => "xport"

/-- A line for an operation: decimal numbers, operands separated by commas (R57). -/
def lineText (agent : Agent) (i : Instr) : String :=
  let operands := String.intercalate ", " ((instrOperands i).map fun v => toString v)
  agentText agent ++ ": " ++ instrMnemonic i ++ (if operands = "" then "" else " " ++ operands)

def isBlankChar (c : Char) : Bool := c == ' ' || c == '\t'

/-- The text without leading and trailing blanks. -/
def trimBlanks (text : List Char) : List Char :=
  ((text.dropWhile isBlankChar).reverse.dropWhile isBlankChar).reverse

/-- The pieces between the separators. -/
def splitAt (sep : Char) : List Char → List (List Char)
  | [] => [[]]
  | c :: text =>
    if c == sep then [] :: splitAt sep text
    else
      match splitAt sep text with
      | [] => [[c]]
      | piece :: pieces => (c :: piece) :: pieces

/-- The text before a result `-> value` (R57). -/
def dropResult : List Char → List Char
  | [] => []
  | '-' :: '>' :: _ => []
  | c :: text => c :: dropResult text

/-- A decimal or hexadecimal digit's value. -/
def digitValue (base : Nat) (c : Char) : Option Nat :=
  let v :=
    if '0' ≤ c ∧ c ≤ '9' then c.toNat - '0'.toNat
    else if 'A' ≤ c ∧ c ≤ 'F' then c.toNat - 'A'.toNat + 10
    else if 'a' ≤ c ∧ c ≤ 'f' then c.toNat - 'a'.toNat + 10
    else base
  if v < base then some v else none

/-- The digits of a number, most significant first, after those read so far. -/
def digitsValue (base acc : Nat) : List Char → Option Nat
  | [] => some acc
  | c :: text =>
    match digitValue base c with
    | none => none
    | some v => digitsValue base (acc * base + v) text

/-- Decimal, or hexadecimal with the prefix `0x` (R57). -/
def naturalValue (text : List Char) : Option Nat :=
  match text with
  | [] => none
  | '0' :: 'x' :: [] => none
  | '0' :: 'x' :: digits => digitsValue 16 0 digits
  | digits => digitsValue 10 0 digits

/-- A number, a leading `-` for a negative one (R57). -/
def numberValue (text : List Char) : Option Int :=
  match text with
  | '-' :: digits => (naturalValue digits).map fun n => -(n : Int)
  | digits => (naturalValue digits).map fun n => (n : Int)

/-- An operand that is a `u8` (R53). -/
def byteOperand (v : Int) : Option Byte :=
  if 0 ≤ v ∧ v < 256 then some (BitVec.ofInt 8 v) else none

/-- An operand that is an `i32` (R53). -/
def signedOperand (v : Int) : Option I32 :=
  if -2 ^ 31 ≤ v ∧ v < 2 ^ 31 then some (BitVec.ofInt 32 v) else none

/-- Three byte operands, in the order of the line (R57). -/
def threeBytes (make : Byte → Byte → Byte → Instr) (a b c : Int) : Option Instr :=
  match byteOperand a, byteOperand b, byteOperand c with
  | some x, some y, some z => some (make x y z)
  | _, _, _ => none

/-- The operation a mnemonic and its operands name; none for a wrong name, count or range (R57). -/
def instrOfText (mnemonic : String) (operands : List Int) : Option Instr :=
  match operands with
  | [] =>
    if mnemonic = "CAP_RESET" then some .capReset
    else if mnemonic = "CAP_READY" then some .capReady
    else if mnemonic = "CAP_RAW" then some .capRaw
    else if mnemonic = "DISP_INIT" then some .dispInit
    else if mnemonic = "REFRESH" then some .refresh
    else if mnemonic = "GET_FRONT" then some .getFront
    else if mnemonic = "NEEDS_UPDATE" then some .needsUpdate
    else if mnemonic = "MUX_TICK" then some .muxTick
    else none
  | [v] =>
    if mnemonic = "CAP_BIT" then
      if v = 0 then some (.capBit false) else if v = 1 then some (.capBit true) else none
    else if mnemonic = "SET_NUMBER" then (signedOperand v).map .setNumber
    else if mnemonic = "SHOW_UM" then (signedOperand v).map .showUm
    else none
  | [a, b, c] =>
    if mnemonic = "DECODE" then threeBytes .decode a b c
    else if mnemonic = "SET_TIME" then threeBytes .setTime a b c
    else if mnemonic = "SHOW_HEX" then threeBytes .showHex a b c
    else none
  | _ => none

/-- The agent a prefix names; without a prefix it is `main` (R57). -/
def agentOfText (text : String) : Option Agent :=
  if text = "bit" then some .bit
  else if text = "main" then some .main
  else if text = "tmo" then some .tmo
  else if text = "xport" then some .xport
  else none

/-- The numbers of an operand list; none if one is not a number. -/
def operandValues : List (List Char) → Option (List Int)
  | [] => some []
  | piece :: pieces =>
    match numberValue (trimBlanks piece), operandValues pieces with
    | some v, some vs => some (v :: vs)
    | _, _ => none

/-- `MNEMONIC operands`, read to an operation (R57). -/
def readOperation (text : List Char) : Option Instr :=
  let text := trimBlanks text
  let mnemonic := text.takeWhile fun c => !isBlankChar c
  let operands := trimBlanks (text.dropWhile fun c => !isBlankChar c)
  let values := if operands.isEmpty then some [] else operandValues (splitAt ',' operands)
  match values with
  | none => none
  | some vs => instrOfText (String.ofList mnemonic) vs

/-- One line of a program, read to its agent and operation (R57); none where it names no operation. -/
def readLine (line : String) : Option (Agent × Instr) :=
  let text := dropResult (line.toList.takeWhile fun c => c != ';')
  match splitAt ':' text with
  | [operation] => (readOperation operation).map fun i => (.main, i)
  | [agent, operation] =>
    match agentOfText (String.ofList (trimBlanks agent)), readOperation operation with
    | some a, some i => some (a, i)
    | _, _ => none
  | _ => none

end Sys2Proof.Machine
end

