-- ==== Sys2Proof/Tests/Slice0.lean ====
section
/-! SUPPORT. Tests with results taken from spec/95_test_vectors.md and the rules' worked examples, the WellFormed smoke test,
and a witness for the hypotheses of each statement. -/

namespace Sys2Proof.Tests
open Sys2Proof.Machine

/-! ### Small states -/

/-- The state a result holds, if it is a next state. -/
def nextOf : Result → Option State
  | .next t => some t
  | .fault _ => none
  | .refused _ => none

/-- The name a result was refused by, if it was. -/
def refusalOf : Result → Option Refusal
  | .next _ => none
  | .fault _ => none
  | .refused r => some r

/-- A state with this capture state, the rest as after reset. -/
def withCapture (sr : Frame) (n : Nat) (ready : Bool) (raw : RawBytes) : State :=
  { State.reset with capture := ⟨sr, n, ready, raw⟩ }

/-- A state with this display, the rest as after reset. -/
def withDisplay (back front : Image) (dirty : Bool) : State :=
  { State.reset with display := ⟨back, front, dirty⟩ }

/-- The frame 0x100064 waits (P2). -/
def waiting : State := withCapture 0x100064 24 true ⟨0x64, 0x00, 0x10⟩

/-- 23 ones accepted (V-CAP-03). -/
def at23 : State := withCapture 0x7FFFFF 23 false ⟨0, 0, 0⟩

/-- Seven bits accepted (V-CAP-10). -/
def at7 : State := withCapture 0x00006B 7 false ⟨0x64, 0, 0⟩

/-- "12.34", the image of V-UM-10. -/
def img1234 : Image := ⟨0x66, 0x4F, 0xDB, 0x06, 0x00, 0x00⟩

/-- "12.34" published, with the scan on slot `i` (spec/95_test_vectors.md section 2.8). -/
def scanning (i : Fin 6) : State := { withDisplay img1234 img1234 false with mux := ⟨i⟩ }

/-- The state with these events to come. -/
def presenting (events : List Event) (s : State) : State := { s with inbox := events }

/-- The back buffer an operation leaves. -/
def backAfter (i : Instr) : Option Image := (nextOf (exec i State.reset)).map fun t => t.display.back

/-! ### Decoding: one word of each row, written out from spec/30_encoding.md R53 and R55 -/

theorem test_decode_capReset : decodeTableWord 40 0x0DEADBEEF = some .capReset := by decide
theorem test_decode_capBit_bits :
    decodeTableWord 40 0b000100000000000000000000000000000001 = some (.capBit true) := by decide
theorem test_decode_capReady : decodeTableWord 40 0x200000000 = some .capReady := by decide
theorem test_decode_capRaw : decodeTableWord 40 0x300000000 = some .capRaw := by decide
theorem test_decode_decode_bits :
    decodeTableWord 40 0b010000000000000100000000000001100100 = some (.decode 0x64 0x00 0x10) := by decide
theorem test_decode_dispInit : decodeTableWord 40 0x500000000 = some .dispInit := by decide
theorem test_decode_setNumber : decodeTableWord 40 0x6FFFFFFFB = some (.setNumber (BitVec.ofInt 32 (-5))) := by decide
theorem test_decode_setTime_bits :
    decodeTableWord 40 0b011100000000000011000010001000111000 = some (.setTime 12 34 56) := by decide
theorem test_decode_showUm : decodeTableWord 40 0x8FFFFFC18 = some (.showUm (BitVec.ofInt 32 (-1000))) := by decide
theorem test_decode_showHex : decodeTableWord 40 0x900123456 = some (.showHex 0x56 0x34 0x12) := by decide
theorem test_decode_refresh : decodeTableWord 40 0xA00000000 = some .refresh := by decide
theorem test_decode_getFront : decodeTableWord 40 0xB00000000 = some .getFront := by decide
theorem test_decode_needsUpdate : decodeTableWord 40 0xC00000000 = some .needsUpdate := by decide
theorem test_decode_muxTick_bits :
    decodeTableWord 40 0b110100000000000000000000000000000000 = some .muxTick := by decide
theorem test_encode_setTime : encode (.setTime 12 34 56) = 0x7000C2238 := by decide
theorem test_encode_decode : encode (.decode 0x64 0x00 0x10) = 0x400100064 := by decide

/-! ### WellFormed: an ill-formed term for each check. `Instr.wellFormed` has no ill-formed term (R56 e). -/

theorem smoke_reserved_E_selects_nothing : CmdWord.selects 0xE00000000 = false := by decide
theorem smoke_reserved_F_selects_nothing : CmdWord.selects 0xF12345678 = false := by decide
theorem smoke_ignored_bits_not_canonical : CmdWord.canonical 0x0DEADBEEF = false := by decide
theorem smoke_reserved_not_canonical : CmdWord.canonical 0xE00000000 = false := by decide
theorem smoke_high_byte_not_canonical : CmdWord.canonical 0x4AB100064 = false := by decide

/-! ### Operations -/

/-- R59's example. -/
theorem test_capReset_example :
    (nextOf (exec .capReset (withCapture 0x001ABC 13 false ⟨1, 2, 3⟩))).map (fun t => t.capture) =
      some ⟨0x000000, 0, false, ⟨1, 2, 3⟩⟩ := by decide
/-- R60's example. -/
theorem test_capBit_example :
    (nextOf (exec (.capBit true) (withCapture 0 2 false ⟨0, 0, 0⟩))).map (fun t => t.capture) =
      some ⟨0x000004, 3, false, ⟨0, 0, 0⟩⟩ := by decide
/-- V-CAP-04. -/
theorem test_capBit_twentyFourth :
    (nextOf (exec (.capBit false) at23)).map (fun t => t.capture) =
      some ⟨0x7FFFFF, 24, true, ⟨0xFF, 0xFF, 0x7F⟩⟩ := by decide
/-- V-CAP-01 and V-CAP-04. -/
theorem test_capReady : (nextOf (exec .capReady at23)).map (fun t => t.resp) = some 0 ∧
    (nextOf (exec .capReady waiting)).map (fun t => t.resp) = some 1 := by decide
/-- R62's example. -/
theorem test_capRaw_ready : (nextOf (exec .capRaw waiting)).map (fun t => t.resp) = some 0x100064 := by decide
/-- V-CAP-12: the answer is the free value, whatever `raw_bytes` holds. -/
theorem test_capRaw_not_ready :
    exec .capRaw at7 = .next (at7.respond ((Config.staleRaw at7.freeCount).zeroExtend 64)) := rfl
/-- V-DEC-13 and V-DEC-15. -/
theorem test_decode_negative :
    (nextOf (exec (.decode 0x56 0x34 0x12) at7)).map (fun t => (t.resp, t.capture)) =
      some (0x00000000FFFDF4A4, ⟨0, 0, false, ⟨0x64, 0, 0⟩⟩) := by decide
/-- V-DEC-10. -/
theorem test_decode_reserved_bits :
    (nextOf (exec (.decode 0xFF 0xFF 0xEF) at7)).map (fun t => t.resp) = some 0x0009FFF6 := by decide
/-- V-REF-08. -/
theorem test_dispInit : (nextOf (exec .dispInit (withDisplay img1234 img1234 false))).map (fun t => t.display) =
    some ⟨⟨0, 0, 0, 0, 0, 0⟩, ⟨0, 0, 0, 0, 0, 0⟩, true⟩ := by decide
/-- V-NUM-02. -/
theorem test_setNumber_minus_five : backAfter (.setNumber (BitVec.ofInt 32 (-5))) = some ⟨0x6D, 0x40, 0, 0, 0, 0⟩ := by
  decide
/-- V-NUM-15. -/
theorem test_setNumber_most_negative :
    backAfter (.setNumber 0x80000000) = some ⟨0x7F, 0x66, 0x7D, 0x4F, 0x7F, 0x66⟩ := by decide
/-- V-TIME-02. -/
theorem test_setTime : backAfter (.setTime 12 34 56) = some ⟨0x7D, 0x6D, 0xE6, 0x4F, 0xDB, 0x06⟩ := by decide
/-- V-TIME-09. -/
theorem test_setTime_open_tens :
    backAfter (.setTime 0 0 255) = some ⟨0x6D, Config.tensGlyphExt 25, 0xBF, 0x3F, 0xBF, 0x3F⟩ := by rfl
/-- V-UM-19. -/
theorem test_showUm_minus_over_top_digit :
    backAfter (.showUm (BitVec.ofInt 32 (-9999999))) = some ⟨0x6F, 0x6F, 0xEF, 0x6F, 0x6F, 0x40⟩ := by decide
/-- V-UM-17: the documenting test of R81, with V-NUM-11 below. -/
theorem test_showUm_overflow : backAfter (.showUm 10000000) = some ⟨0x40, 0x40, 0x40, 0x40, 0x40, 0x40⟩ := by decide
/-- V-NUM-11. -/
theorem test_setNumber_truncates :
    backAfter (.setNumber 1234567) = some ⟨0x07, 0x7D, 0x6D, 0x66, 0x4F, 0x5B⟩ := by decide
/-- V-HEX-04. -/
theorem test_showHex : backAfter (.showHex 0x56 0x34 0x12) = some ⟨0x7D, 0x6D, 0x66, 0x4F, 0x5B, 0x06⟩ := by decide
/-- V-HEX-08. -/
theorem test_showHex_open_nibble :
    backAfter (.showHex 0x0A 0x00 0x00) = some ⟨Config.hexGlyph 10, 0x3F, 0x3F, 0x3F, 0x3F, 0x3F⟩ := by rfl
/-- R76's example. -/
theorem test_refresh :
    (nextOf (exec .refresh (withDisplay ⟨0x3F, 0, 0, 0, 0, 0⟩ ⟨0, 0, 0, 0, 0, 0⟩ true))).map (fun t => t.display) =
      some ⟨⟨0x3F, 0, 0, 0, 0, 0⟩, ⟨0x3F, 0, 0, 0, 0, 0⟩, false⟩ := by decide
/-- V-REF-05. -/
theorem test_getFront : (nextOf (exec .getFront (scanning 0))).map (fun t => t.resp) = some 0x0000000006DB4F66 := by
  decide
/-- V-REF-01. -/
theorem test_needsUpdate : (nextOf (exec .needsUpdate State.reset)).map (fun t => t.resp) = some 1 ∧
    (nextOf (exec .needsUpdate (scanning 0))).map (fun t => t.resp) = some 0 := by decide
/-- V-MUX-04 and V-MUX-05. -/
theorem test_muxTick_wraps :
    ((scanning 5).segOut, (scanning 5).digSel) = (0x00, 0b100000) ∧
      (nextOf (exec .muxTick (scanning 5))).map (fun t => (t.segOut, t.digSel)) = some (0x66, 0b000001) := by decide

/-! ### Steps -/

/-- The host's entry runs its word as the first operation after reset. -/
theorem test_fetch_runs_first :
    (nextOf (step (State.reset.withFetchWord 40 0x100000001))).map (fun t => (t.capture.shiftRegister, t.inbox)) =
      some (0x000001, []) := by decide
/-- V-ENC-06. -/
theorem test_reserved_word_refused :
    refusalOf (step (State.reset.withFetchWord 40 0xE00000000)) = some (.reservedCommand 0xE) := by decide
/-- R101. -/
theorem test_hardware_reset_keeps_raw :
    (nextOf (step (presenting [.hardwareReset] waiting))).map (fun t => t.capture) =
      some ⟨0, 0, false, ⟨0x64, 0x00, 0x10⟩⟩ := by decide
/-- P2: the frame 0x100064 shows "-1.00". -/
theorem test_show_measurement :
    (nextOf (pseudoRun .showMeasurement waiting)).map (fun t => t.display.back) =
      some ⟨0x3F, 0x3F, 0x86, 0x40, 0x00, 0x00⟩ := by decide

/-! ### Text (R57): lines of the programs of spec/95_test_vectors.md -/

theorem test_text_agent_and_comment :
    readLine "tmo:  CAP_RESET            ; 0x000000000  line idle" = some (.tmo, .capReset) := by decide
theorem test_text_hex_operands :
    readLine "main:  DECODE 0x64,0x00,0x10; 0x400100064" = some (.main, .decode 0x64 0x00 0x10) := by decide
theorem test_text_negative_no_prefix :
    readLine "SHOW_UM -1000" = some (.main, .showUm (BitVec.ofInt 32 (-1000))) := by decide
theorem test_text_result : readLine "CAP_READY -> 1" = some (.main, .capReady) := by decide
theorem test_text_out_of_range : readLine "SET_TIME 256, 0, 0" = none := by decide
theorem test_text_write : lineText .main (.setTime 12 34 56) = "main: SET_TIME 12, 34, 56" := by decide

/-! ### Witnesses: the hypotheses of each statement can be met, at the values where its clauses meet -/

theorem witness_opcode_premises :
    opcField 0x0DEADBEEF = 0x0#4 ∧ opcField 0x1FFFFFFFE = 0x1#4 ∧ opcField 0x200000000 = 0x2#4 ∧
      opcField 0x300000000 = 0x3#4 ∧ opcField 0x4AB100064 = 0x4#4 ∧ opcField 0x500000000 = 0x5#4 ∧
      opcField 0x6FFFFFFFB = 0x6#4 ∧ opcField 0x7FF0C2238 = 0x7#4 ∧ opcField 0x880000000 = 0x8#4 ∧
      opcField 0x900ABCDEF = 0x9#4 ∧ opcField 0xA00000000 = 0xA#4 ∧ opcField 0xB00000000 = 0xB#4 ∧
      opcField 0xC00000000 = 0xC#4 ∧ opcField 0xD00000000 = 0xD#4 := by decide
theorem witness_CapResetClearsCapture :
    CaptureCleared State.reset.capture ∧ waiting.capture.frameReady = true ∧
      (nextOf (exec .capReset waiting)).map (fun t => t.capture.frameReady) = some false := by decide
theorem witness_CapBitAcceptsOrDrops :
    (CaptureInv State.reset.capture ∧ State.reset.capture.frameReady = false ∧ State.reset.capture.bitIndex = 0) ∧
      (CaptureInv at23.capture ∧ at23.capture.frameReady = false) ∧
      CaptureInv waiting.capture ∧ waiting.capture.frameReady = true := by decide
theorem witness_CapReadyReturnsFlag : CaptureInv at23.capture ∧ CaptureInv waiting.capture := by decide
theorem witness_CapRawReturnsSnapshot : CaptureInv waiting.capture ∧ waiting.capture.frameReady = true ∧
    (nextOf (exec (.capBit true) waiting)).isSome = true := by decide
theorem witness_FrameCompletesOnTwentyFourthBit :
    CaptureCleared State.reset.capture ∧ (List.replicate 23 true).length < 24 ∧
      24 ≤ (List.replicate 24 true).length ∧ 24 ≤ (List.replicate 25 true).length := by decide
theorem witness_WaitingFrameDropsBits : waiting.capture.frameReady = true := by decide
theorem witness_DecodeIgnoresReservedBits : (0xEF#8).getLsbD 4 = (0x00#8).getLsbD 4 ∧ (0x1F#8).getLsbD 4 = (0xFF#8).getLsbD 4 := by
  decide
theorem witness_SetNumberImage :
    (0#32).toInt = 0 ∧ (BitVec.ofInt 32 (-99999)).toInt ≠ 0 ∧ (BitVec.ofInt 32 (-100000)).toInt ≠ 0 ∧
      (0x80000000#32).toInt ≠ 0 := by decide
theorem witness_ShowUmImage :
    (9999999#32).toInt.natAbs < 10000000 ∧ 10000000 ≤ (10000000#32).toInt.natAbs ∧
      (BitVec.ofInt 32 (-9999999)).toInt.natAbs < 10000000 ∧ 10000000 ≤ (0x80000000#32).toInt.natAbs := by decide
theorem witness_ShowHexImage :
    ((0x00#8 ++ 0x00#8 ++ 0x09#8).extractLsb' 0 4).toNat < 10 ∧
      ¬ ((0x00#8 ++ 0x00#8 ++ 0x0A#8).extractLsb' 0 4).toNat < 10 := by decide
theorem witness_RefreshPublishesDirtyImage :
    State.reset.display.dirty = true ∧ (scanning 0).display.dirty = false := by decide
theorem witness_FormattingReadsNoState :
    isFormatting (.setNumber 7) = true ∧ isFormatting (.setTime 1 2 3) = true ∧ isFormatting (.showUm 7) = true ∧
      isFormatting (.showHex 1 2 3) = true ∧ (nextOf (exec .refresh State.reset)).isSome = true ∧
      (nextOf (exec .needsUpdate State.reset)).map (fun t => t.display.dirty) = some true := by decide
theorem witness_TwoOverflowPolicies :
    1000000 ≤ (1000000#32).toInt.natAbs ∧ 10000000 ≤ (BitVec.ofInt 32 (-10000000)).toInt.natAbs ∧
      ((BitVec.ofInt 32 (-100000)).toInt < 0 ∧ 100000 ≤ (BitVec.ofInt 32 (-100000)).toInt.natAbs) ∧
      (BitVec.ofInt 32 (-1000000)).toInt < 0 ∧ 1000000 ≤ (BitVec.ofInt 32 (-1000000)).toInt.natAbs ∧
      (BitVec.ofInt 32 (-9999999)).toInt.natAbs < 10000000 := by decide
/-- Also for `DirtyOverEveryOperation`, `WritersOfEachElement`, `ShiftRegisterAndIndexAreHidden` and
`IdempotentOperations`: operations that answer a next state, twice in a row. -/
theorem witness_SlotContents :
    (nextOf (exec (.setNumber 1) State.reset)).isSome = true ∧ (nextOf (exec (.setTime 1 2 3) State.reset)).isSome = true ∧
      (nextOf (exec (.showUm 1) State.reset)).isSome = true ∧
      (nextOf (exec (.showHex 1 2 3) State.reset)).isSome = true := by decide
theorem witness_AbsoluteValueOfOperand :
    0 ≤ (0#32).toInt ∧ (BitVec.ofInt 32 (-1)).toInt < 0 ∧ (0x80000000#32).toInt < 0 := by decide
theorem witness_GlyphTable : 1239 % 10 = (9 : Fin 10).val := by decide
theorem witness_DecodeEncodeRoundTrip : (Instr.setTime 255 0 99).wellFormed = true := by decide
theorem witness_CanonicalWordsAreEncodings :
    CmdWord.canonical 0x100000001 = true ∧ CmdWord.canonical 0x7000C2238 = true ∧
      CmdWord.canonical 0x6FFFFFFFB = true ∧ CmdWord.canonical 0xD00000000 = true := by decide
theorem witness_IgnoredArgBitsDoNotMatter :
    opcField 0x4AB100064 = opcField 0x400100064 ∧
      argField 0x4AB100064 &&& usedArgBits (opcField 0x400100064) =
        argField 0x400100064 &&& usedArgBits (opcField 0x400100064) := by decide
theorem witness_OnlyReservedCodesAreRefused :
    (presenting [.command .main 0xE00000000] State.reset).inbox = .command .main 0xE00000000 :: [] ∧
      opcField 0xE00000000 = 0xE#4 ∧ opcField 0xF12345678 = 0xF#4 ∧ opcField 0xD00000000 ≠ 0xE#4 ∧
      opcField 0xD00000000 ≠ 0xF#4 := by decide
theorem witness_CaptureInvariantKept :
    CaptureInv (presenting [.command .bit 0x100000001] at23).capture ∧
      (nextOf (step (presenting [.command .bit 0x100000001] at23))).map (fun t => t.capture.frameReady) = some true := by
  decide
theorem witness_DisplayInvariantKept :
    DisplayInv (presenting [.command .main 0xA00000000] State.reset).display ∧
      (nextOf (step (presenting [.command .main 0xA00000000] State.reset))).map (fun t => t.display.dirty) = some false := by
  decide
theorem witness_WritersOfEachElement :
    (nextOf (exec (.capBit true) at23)).map (fun t => t.capture.rawBytes) = some ⟨0xFF, 0xFF, 0xFF⟩ ∧
      (nextOf (exec .refresh (withDisplay img1234 ⟨0, 0, 0, 0, 0, 0⟩ true))).map (fun t => t.display.front) = some img1234 ∧
      (nextOf (exec .dispInit (scanning 3))).map (fun t => t.display.front) = some ⟨0, 0, 0, 0, 0, 0⟩ ∧
      (nextOf (exec .refresh State.reset)).map (fun t => t.display.dirty) = some false ∧
      (nextOf (exec (.setNumber 7) (withDisplay img1234 img1234 false))).map (fun t => t.display.dirty) = some true ∧
      (nextOf (exec .muxTick (scanning 5))).map (fun t => t.mux.muxIndex) = some 0 := by decide
theorem witness_BackBufferIsHiddenUntilRefresh :
    Instr.refresh ∉ [Instr.muxTick, .getFront, .needsUpdate, .capBit true, .capRaw] ∧
      (withDisplay img1234 img1234 true).display.back ≠ ⟨0, 0, 0, 0, 0, 0⟩ := by decide
theorem witness_StepRunsDecodedOperation :
    (presenting [.command .tmo 0x0DEADBEEF, .hardwareReset] at7).inbox =
        .command .tmo 0x0DEADBEEF :: [.hardwareReset] ∧
      (decodeWord 0x0DEADBEEF).toOption = some .capReset := by decide
theorem witness_StepIdlesWithoutEvent : State.reset.inbox = [] := by decide
theorem witness_HardwareResetEffect :
    (presenting [.hardwareReset, .command .bit 0x100000001] waiting).inbox =
      .hardwareReset :: [.command .bit 0x100000001] := by decide
theorem witness_RunNeverHalts :
    ∀ e ∈ (presenting [.hardwareReset, .command .bit 0x100000001] waiting).inbox, eventSelects e = true := by decide
theorem witness_QueriesArePure :
    isQuery .capRaw = true ∧ isQuery .muxTick = false ∧ (nextOf (exec .muxTick State.reset)).isSome = true := by decide
theorem witness_IdempotentOperations :
    ((nextOf (exec (.capBit true) at7)).bind fun t => nextOf (exec (.capBit true) t)).map (fun u => u.capture.bitIndex) =
        some 9 ∧
      ((nextOf (exec .refresh State.reset)).bind fun t => nextOf (exec .refresh t)).isSome = true := by decide
theorem witness_SimultaneousEventOrders :
    (at23.capture.frameReady = false ∧ at23.capture.bitIndex = 23) ∧ waiting.capture.frameReady = true ∧
      isFormatting (.setNumber 7) = true := by decide
theorem witness_WaitingFrameSafeFromBitAndTransport :
    eventObeysContract (.command .bit 0x100000001) = true ∧ eventObeysContract (.command .xport 0xD00000000) = true ∧
      waiting.capture.frameReady = true ∧
      (nextOf (step (presenting [.command .bit 0x100000001] waiting))).isSome = true ∧
      (nextOf (step (presenting [.command .xport 0xD00000000] waiting))).isSome = true := by decide
theorem witness_PowerOnRawBytesUnobservable : State.reset.capture.frameReady = false := by decide
theorem witness_LateDecodeMisalignsFrames :
    waiting.capture.frameReady = true ∧
      (1 ≤ [true].length ∧ [true].length ≤ 23 ∧ [true].length + (List.replicate 23 false).length = 24) ∧
      (List.replicate 23 true).length ≤ 23 ∧ (List.replicate 23 true).length + [false].length = 24 := by decide
theorem witness_MeasurementIsShownInFull :
    waiting.capture.frameReady = true ∧
      100 = waiting.capture.rawBytes.b0.toNat + 256 * waiting.capture.rawBytes.b1.toNat := by decide

end Sys2Proof.Tests
end

/-! PROOFS. spec/30_encoding.md: the glyph table (R48), the packing of a frame (R44, R45), the responses (R54). -/

namespace Sys2Proof.Machine

/-! ### The glyph table (R48) -/

/-- A table glyph leaves the decimal-point bit free (R47, R48). -/
theorem glyph_getLsbD_seven : ∀ k : Fin 12, (glyph k).getLsbD 7 = false := by decide

/-- `lowDigit` shows the last decimal digit of its number (R70). -/
theorem lowDigit_of_mod_eq {n : Nat} {d : Fin 10} (h : n % 10 = d.val) : lowDigit n = digit d :=
  congrArg digit (Fin.ext h)

/-- Settles O23: the table and its names by evaluation, DIGIT for every number by its last decimal digit. -/
theorem glyphTable : Obligations.GlyphTable := by
  unfold Obligations.GlyphTable
  refine ⟨by decide, rfl, rfl, fun d => ⟨rfl, fun n h => ?_⟩, glyph_getLsbD_seven⟩
  exact lowDigit_of_mod_eq h

/-! ### Packing and reassembly (R44, R45) -/

section packing
variable (f : Frame) (b0 b1 b2 : Byte)

/-- Bit i of byte k of a snapshot is frame bit 8k+i (R44). -/
theorem snapshot_getLsbD {i : Nat} (hi : i < 8) :
    (snapshot f).b0.getLsbD i = f.getLsbD i ∧ (snapshot f).b1.getLsbD i = f.getLsbD (8 + i) ∧
      (snapshot f).b2.getLsbD i = f.getLsbD (16 + i) := by
  simp [snapshot, hi]

/-- The reassembled frame as a number, little-endian (R45). -/
theorem frame24_toNat : (frame24 b0 b1 b2).toNat = b0.toNat + 2 ^ 8 * b1.toNat + 2 ^ 16 * b2.toNat := by
  have hlow : (b2 ++ b1).toNat = b2.toNat * 2 ^ 8 + b1.toNat := by
    rw [BitVec.toNat_append, ← Nat.shiftLeft_add_eq_or_of_lt b1.isLt, Nat.shiftLeft_eq]
  rw [frame24, BitVec.toNat_append, ← Nat.shiftLeft_add_eq_or_of_lt b0.isLt, Nat.shiftLeft_eq, hlow]
  omega

/-- Packing undoes reassembly (R44, R45): each byte is a digit in base 2^8 of the frame's number. -/
theorem snapshot_frame24 : snapshot (frame24 b0 b1 b2) = ⟨b0, b1, b2⟩ := by
  have hbyte (start : Nat) :
      ((frame24 b0 b1 b2).extractLsb' start 8).toNat =
        (b0.toNat + 2 ^ 8 * b1.toNat + 2 ^ 16 * b2.toNat) / 2 ^ start % 2 ^ 8 := by
    rw [BitVec.extractLsb'_toNat, frame24_toNat, Nat.shiftRight_eq_div_pow]
  have h0 := b0.isLt
  have h1 := b1.isLt
  have h2 := b2.isLt
  simp only [snapshot, RawBytes.mk.injEq]
  refine ⟨?_, ?_, ?_⟩ <;> apply BitVec.eq_of_toNat_eq <;> rw [hbyte] <;> omega

end packing

/-- Settles O24: the bits of a snapshot, `frame24_snapshot` and `snapshot_frame24` for the two inverses, and the
little-endian value `frame24_toNat`. -/
theorem snapshotAndReassembly : Obligations.SnapshotAndReassembly := by
  unfold Obligations.SnapshotAndReassembly
  exact ⟨fun f _ hi => snapshot_getLsbD f hi, frame24_snapshot, fun b0 b1 b2 =>
    ⟨snapshot_frame24 b0 b1 b2, frame24_toNat b0 b1 b2⟩⟩

/-! ### Queries and responses (spec/20_memory.md R33, R54) -/

/-- A query only responds, and what it responds does not depend on the response before it (R33; with no frame ready CAP_RAW
answers by `freeCount`, which no response advances: log entry 6). -/
theorem exec_query {i : Instr} (h : isQuery i = true) (s : State) :
    ∃ v, exec i s = .next (s.respond v) ∧ ∀ r, exec i (s.respond r) = .next (s.respond v) := by
  cases i with
  | capReady => exact ⟨flagResp s.capture.frameReady, rfl, fun _ => rfl⟩
  | capRaw => exact ⟨frameResp s.rawAnswer, rfl, fun _ => rfl⟩
  | getFront => exact ⟨imageResp s.display.front, rfl, fun _ => rfl⟩
  | needsUpdate => exact ⟨flagResp s.display.dirty, rfl, fun _ => rfl⟩
  | _ => cases h

/-- An operation that is neither a query nor DECODE ends by responding 0 (R54). -/
theorem exec_responds_zero {i : Instr} (hq : isQuery i = false) (hd : ∀ b0 b1 b2, i ≠ .decode b0 b1 b2) (s : State) :
    ∃ u : State, exec i s = .next (u.respond 0#64) := by
  cases i with
  | decode b0 b1 b2 => exact absurd rfl (hd b0 b1 b2)
  | capReady | capRaw | getFront | needsUpdate => cases hq
  | capBit bit =>
    cases hr : s.capture.frameReady with
    | true => exact ⟨s, exec_capBit_ready s bit hr⟩
    | false => exact ⟨s.acceptBit bit, exec_capBit_accepting s bit hr⟩
  | _ => exact ⟨_, rfl⟩

/-- Settles O47: a query's second run starts from the state its first run answered, which differs from the first in the
response alone. -/
theorem queriesArePure : Obligations.QueriesArePure := by
  unfold Obligations.QueriesArePure
  refine ⟨fun i s hq => ?_, fun i s t hq hd h => ?_⟩
  · obtain ⟨v, hfirst, hagain⟩ := exec_query hq s
    have hsame : SameElements s (s.respond v) := ⟨rfl, rfl, rfl⟩
    exact ⟨s.respond v, hfirst, hsame, s.respond v, hagain v, hsame, rfl⟩
  · obtain ⟨u, hu⟩ := exec_responds_zero hq hd s
    rw [hu] at h
    injection h with h
    rw [← h, respond_resp]

end Sys2Proof.Machine

/-! PROOFS. spec/40_capture.md: the capture operations (R59 to R62) and what a waiting frame allows (R64). -/

namespace Sys2Proof.Machine

/-! ### Decoding by the operation code (R55) -/

/-- Once the code of a word is known, only its ARG is left to decode. -/
theorem decodeWord_of_opcField {w : CmdWord} {opc : BitVec 4} (h : opcField w = opc) :
    decodeWord w = decodeFields opc (argField w) := by
  rw [decodeWord, h]

/-- ARG[0] is bit 0 of the word (R52, R53). -/
theorem argField_getLsbD_zero (w : CmdWord) : (argField w).getLsbD 0 = w.getLsbD 0 := by
  simp [argField]

/-! ### Storing a bit under the capture invariant (R12, R16, R60) -/

/-- A capture in which no frame waits has room for one more bit. -/
theorem bitIndex_lt_of_not_ready {c : CaptureState} (hinv : CaptureInv c) (hr : c.frameReady = false) :
    c.bitIndex < 24 := by
  obtain ⟨hle, hready, -, -⟩ := hinv
  have hne : c.bitIndex ≠ 24 := fun h24 => by simp [hready.mpr h24] at hr
  omega

/-- Storing a bit at a clear position is or-ing it in. -/
theorem setBit_eq_or {frame : Frame} {i : Nat} (hclear : frame.getLsbD i = false) (bit : Bool) :
    setBit frame i bit = frame ||| ((BitVec.ofBool bit).zeroExtend 24 <<< i) := by
  have hmask : frame &&& ~~~(1#24 <<< i) = frame := by
    apply BitVec.eq_of_getLsbD_eq
    intro j hj
    by_cases hji : j = i
    · simp [hji, hclear]
    · have hne : j < i ∨ j - i ≠ 0 := by omega
      simpa [hj] using fun _ => hne
  rw [setBit, hmask]

/-! ### Responses of the capture queries (R54, R61, R62) -/

/-- A flag is returned as 1 or 0. -/
theorem flagResp_eq (flag : Bool) : flagResp flag = if flag then 1#64 else 0#64 := by
  cases flag <;> rfl

theorem flagResp_eq_one_iff (flag : Bool) : flagResp flag = 1#64 ↔ flag = true := by
  cases flag <;> simp [flagResp_eq]

/-- A returned frame is a u24. -/
theorem frameResp_toNat_lt (f : Frame) : (frameResp f).toNat < 2 ^ 24 := by
  rw [frameResp, BitVec.zeroExtend_eq_setWidth, BitVec.toNat_setWidth]
  exact (Nat.mod_le _ _).trans_lt f.isLt

/-- Under the invariant a waiting snapshot reassembles to the shift register (R16, R45). -/
theorem rawAnswer_eq_shiftRegister {s : State} (hinv : CaptureInv s.capture) (hr : s.capture.frameReady = true) :
    s.rawAnswer = s.capture.shiftRegister := by
  obtain ⟨-, -, hraw, -⟩ := hinv
  rw [rawAnswer_of_ready s hr, hraw hr, frame24_snapshot]

/-! ### The capture reset and a waiting frame -/

/-- In capture state 0 a capture reset finds nothing to clear. -/
theorem clearCapture_of_cleared {s : State} (h : CaptureCleared s.capture) : s.clearCapture.capture = s.capture := by
  rcases s with ⟨⟨shift, index, ready, raw⟩, display, mux, resp, inbox, count⟩
  obtain ⟨rfl, rfl, rfl⟩ := h
  rfl

/-- While a frame waits an operation leaves the capture whole, unless it is one of the two that clear it (R59, R64, R66). -/
theorem exec_waiting {i : Instr} {s t : State} (hr : s.capture.frameReady = true) (h : exec i s = .next t) :
    t.capture = s.capture ∨
      ((i = .capReset ∨ ∃ b0 b1 b2, i = .decode b0 b1 b2) ∧ t.capture = s.clearCapture.capture) := by
  cases i with
  | capReset => injection h with h; subst h; exact .inr ⟨.inl rfl, rfl⟩
  | decode b0 b1 b2 => injection h with h; subst h; exact .inr ⟨.inr ⟨b0, b1, b2, rfl⟩, rfl⟩
  | capBit bit =>
    rw [exec_capBit_ready s bit hr] at h
    injection h with h; subst h; exact .inl rfl
  | refresh => injection h with h; subst h; exact .inl (publish_capture s)
  | _ => injection h with h; subst h; exact .inl rfl

/-! ### The statements -/

/-- Settles O1: the fields of `clearCapture`, and `exec_waiting` for what can end a waiting frame. -/
theorem capResetClearsCapture : Obligations.CapResetClearsCapture := by
  unfold Obligations.CapResetClearsCapture
  refine ⟨fun w hw => decodeWord_of_opcField hw, fun s => ?_, fun i s t hr h hended => ?_⟩
  · exact ⟨_, exec_capReset s, rfl, rfl, rfl, rfl, rfl, rfl, rfl, clearCapture_of_cleared⟩
  · rcases exec_waiting hr h with hkept | ⟨hi, -⟩
    · simp [hkept, hr] at hended
    · exact hi

/-- Settles O2: a waiting frame drops the bit; otherwise the invariant gives room for it at a clear position, and the
24th bit is the one after which `frameComplete` holds. -/
theorem capBitAcceptsOrDrops : Obligations.CapBitAcceptsOrDrops := by
  unfold Obligations.CapBitAcceptsOrDrops
  refine ⟨fun w hw => ?_, fun bit s hinv => ?_⟩
  · rw [decodeWord_of_opcField hw, ← argField_getLsbD_zero]
    rfl
  cases hr : s.capture.frameReady with
  | true =>
    obtain ⟨hle, -, -, -⟩ := hinv
    exact ⟨_, exec_capBit_ready s bit hr, rfl, rfl, rfl, hle, fun _ => rfl, nofun⟩
  | false =>
    have hroom := bitIndex_lt_of_not_ready hinv hr
    obtain ⟨-, -, -, hclear⟩ := hinv
    refine ⟨_, exec_capBit_accepting s bit hr, rfl, rfl, rfl, hroom, nofun, fun _ =>
      ⟨Nat.le_of_lt_succ hroom, rfl, fun j hj => setBit_getLsbD _ _ j bit hj,
        setBit_eq_or (hclear _ hroom le_rfl) bit, fun hfull => ?_, fun hpartial => ?_⟩⟩
    · have hcount : s.capture.bitIndex + 1 = 24 := hfull
      simp [hcount, snapshot]
    · have hcount : s.capture.bitIndex + 1 ≠ 24 := hpartial
      simp [hcount, hr]

/-- Settles O4: `rawAnswer` while a frame is ready, and `exec_waiting` for the stability of a waiting frame. -/
theorem capRawReturnsSnapshot : Obligations.CapRawReturnsSnapshot := by
  unfold Obligations.CapRawReturnsSnapshot
  refine ⟨fun w hw => decodeWord_of_opcField hw, fun s => ?_, fun i s t hr h => ?_⟩
  · refine ⟨_, exec_capRaw s, ⟨rfl, rfl, rfl⟩, frameResp_toNat_lt _, fun hr => ?_, fun hinv hr => ?_⟩
    · exact congrArg frameResp (rawAnswer_of_ready s hr)
    · exact congrArg frameResp (rawAnswer_eq_shiftRegister hinv hr)
  · rcases exec_waiting hr h with hkept | ⟨hi, hcleared⟩
    · rw [hkept]
      exact ⟨rfl, .inl hr⟩
    · rw [hcleared]
      exact ⟨rfl, .inr hi⟩

/-- Settles O3: the response is 1 exactly when the flag is set, which by the invariant is at 24 bits. -/
theorem capReadyReturnsFlag : Obligations.CapReadyReturnsFlag := by
  unfold Obligations.CapReadyReturnsFlag
  refine ⟨fun w hw => decodeWord_of_opcField hw, fun s =>
    ⟨_, exec_capReady s, ⟨rfl, rfl, rfl⟩, flagResp_eq _, fun hinv => ?_⟩⟩
  obtain ⟨-, hready, -, -⟩ := hinv
  exact (flagResp_eq_one_iff _).trans hready

end Sys2Proof.Machine

/-! PROOFS. spec/42_display.md: what a formatting operation stores (R69), the display operations without a number to format
(R71, R73, R76 to R78). -/

namespace Sys2Proof.Machine

/-! ### What the operations do to the display (R69, R71, R76) -/

/-- A formatting operation composes an image that its operands alone give (R69). -/
theorem exec_formatting {i : Instr} (h : isFormatting i = true) :
    ∃ img, ∀ s : State, exec i s = .next ((s.compose img).respond 0#64) := by
  cases i with
  | setNumber value => exact ⟨numberImage value, fun s => exec_setNumber s value⟩
  | setTime hours minutes seconds => exact ⟨timeImage hours minutes seconds, fun s => exec_setTime s hours minutes seconds⟩
  | showUm value => exact ⟨micrometreImage value, fun s => exec_showUm s value⟩
  | showHex b0 b1 b2 => exact ⟨hexImage b0 b1 b2, fun s => exec_showHex s b0 b1 b2⟩
  | _ => cases h

/-- Settles O18: `exec_formatting` gives the image before the state; of the other three operations REFRESH leaves `dirty`
clear and the two queries leave the display whole. -/
theorem formattingReadsNoState : Obligations.FormattingReadsNoState := by
  unfold Obligations.FormattingReadsNoState
  refine ⟨fun i hi => ?_, fun i s t hi h => ?_⟩
  · obtain ⟨img, hexec⟩ := exec_formatting hi
    exact ⟨img, fun s => ⟨_, hexec s, rfl, rfl, rfl, rfl, rfl⟩⟩
  · rcases hi with rfl | rfl | rfl <;> injection h with h <;> subst h
    · exact ⟨publish_back s, by simp⟩
    · exact ⟨rfl, id⟩
    · exact ⟨rfl, id⟩

/-- Settles O10: both buffers hold BLANK in every slot. -/
theorem dispInitBlanksBothBuffers : Obligations.DispInitBlanksBothBuffers := by
  unfold Obligations.DispInitBlanksBothBuffers
  refine ⟨fun w hw => decodeWord_of_opcField hw, fun s =>
    ⟨_, exec_dispInit s, fun i => ?_, rfl, rfl, rfl, rfl⟩⟩
  exact ⟨fill_get blankGlyph i, fill_get blankGlyph i⟩

/-- Settles O15: the fields of `publish`; the second refresh finds the display clean. -/
theorem refreshPublishesDirtyImage : Obligations.RefreshPublishesDirtyImage := by
  unfold Obligations.RefreshPublishesDirtyImage
  refine ⟨fun w hw => decodeWord_of_opcField hw, fun s => ⟨_, exec_refresh s, fun hd => ?_, fun hd => ?_,
    publish_back s, publish_dirty s, rfl, publish_capture s, publish_mux s, _, exec_refresh _, ?_⟩⟩
  · simp [hd]
  · simp [hd]
  · rw [publish_of_clean (s.publish.respond 0#64) (publish_dirty s)]
    exact ⟨rfl, rfl, rfl⟩

/-! ### The two display queries (R54, R77, R78) -/

section imageResp
variable (img : Image)

/-- Byte i of the response is slot i (R54): the i bytes below it are dropped, and it stands lowest in the rest. -/
theorem imageResp_extractLsb'_byte (i : Fin 6) : (imageResp img).extractLsb' (8 * i.val) 8 = img.get i := by
  rw [imageResp]
  fin_cases i <;>
    simp (disch := decide) only [Image.get, BitVec.extractLsb'_append_eq_of_le, BitVec.extractLsb'_append_eq_right,
      Nat.reduceMul, Nat.reduceSub]

/-- The bits above the six slots are 0 (R54). -/
theorem imageResp_extractLsb'_top : (imageResp img).extractLsb' 48 16 = 0#16 := by
  simp (disch := decide) only [imageResp, BitVec.extractLsb'_append_eq_of_le, BitVec.extractLsb'_eq_self, Nat.reduceSub]

end imageResp

/-- Settles O16: the response packs the front buffer, and nothing else changes. -/
theorem getFrontReturnsPublishedImage : Obligations.GetFrontReturnsPublishedImage := by
  unfold Obligations.GetFrontReturnsPublishedImage
  exact ⟨fun w hw => decodeWord_of_opcField hw, fun s => ⟨_, exec_getFront s, ⟨rfl, rfl, rfl⟩,
    imageResp_extractLsb'_byte s.display.front, imageResp_extractLsb'_top s.display.front⟩⟩

/-- Settles O17: the response is the flag `dirty` as a number. -/
theorem needsUpdateReturnsDirty : Obligations.NeedsUpdateReturnsDirty := by
  unfold Obligations.NeedsUpdateReturnsDirty
  exact ⟨fun w hw => decodeWord_of_opcField hw, fun s =>
    ⟨_, exec_needsUpdate s, ⟨rfl, rfl, rfl⟩, flagResp_eq s.display.dirty⟩⟩

/-! ### The two-digit fields of SET_TIME (R73) -/

/-- Only the last decimal digit is shown (R70). -/
theorem lowDigit_mod_ten (n : Nat) : lowDigit (n % 10) = lowDigit n :=
  lowDigit_of_mod_eq (d := ⟨n % 10, Nat.mod_lt n (by decide)⟩) (Nat.mod_mod n 10)

/-- The tens of a field are one digit up to 99 and the open parameter from 100 on (R50). -/
theorem tensDigit_div_ten (n : Nat) :
    tensDigit (n / 10) = if n < 100 then lowDigit (n / 10) else Config.tensGlyphExt (n / 10) := by
  have htens : n / 10 ≤ 9 ↔ n < 100 := by omega
  simp only [tensDigit, htens]

/-- SET_TIME reads hours, minutes and seconds from ARG bytes 2, 1 and 0 (R53, R73). -/
theorem decodeWord_setTime {w : CmdWord} (hw : opcField w = 0x7#4) :
    decodeWord w = .ok (.setTime (w.extractLsb' 16 8) (w.extractLsb' 8 8) (w.extractLsb' 0 8)) := by
  have hhours : argByte (argField w) 2 = w.extractLsb' 16 8 := argByte_argField w 2 (by decide)
  have hminutes : argByte (argField w) 1 = w.extractLsb' 8 8 := argByte_argField w 1 (by decide)
  have hseconds : argByte (argField w) 0 = w.extractLsb' 0 8 := argByte_argField w 0 (by decide)
  rw [decodeWord_of_opcField hw, ← hhours, ← hminutes, ← hseconds]
  rfl

/-- Settles O12: each field's tens by `tensDigit_div_ten`, its units by `lowDigit_mod_ten`. -/
theorem setTimeImage : Obligations.SetTimeImage := by
  unfold Obligations.SetTimeImage
  refine ⟨fun w hw => decodeWord_setTime hw, fun hours minutes seconds s =>
    ⟨_, exec_setTime s hours minutes seconds, tensDigit_div_ten _, ?_, tensDigit_div_ten _, ?_, tensDigit_div_ten _, ?_,
      rfl, rfl, rfl, rfl, rfl⟩⟩ <;> rw [lowDigit_mod_ten] <;> rfl

end Sys2Proof.Machine

/-! PROOFS. spec/30_encoding.md: the decoder and the encoder are inverse to each other (R52, R53, R55), and which codes are
refused (R56). -/

namespace Sys2Proof.Machine

/-! ### Reading an encoded word (R52, R53) -/

/-- Decoding a word made of a code and an ARG reads exactly these two. -/
theorem decodeWord_cmdWord (opc : BitVec 4) (arg : BitVec 32) : decodeWord (cmdWord opc arg) = decodeFields opc arg := by
  rw [decodeWord, opcField_cmdWord, argField_cmdWord]

/-- A word is its code above its ARG. -/
theorem cmdWord_fields (w : CmdWord) : cmdWord (opcField w) (argField w) = w :=
  BitVec.extractLsb'_append_extractLsb'_eq_extractLsb' rfl |>.trans BitVec.extractLsb'_eq_self

/-- The operand types are the legal ranges (R56 e). -/
theorem wellFormed_eq_true (i : Instr) : i.wellFormed = true := by cases i <;> rfl

/-- Settles O25: by the operand format of the operation, each operand read back from the ARG that `encode` wrote. -/
theorem decodeEncodeRoundTrip : Obligations.DecodeEncodeRoundTrip := by
  unfold Obligations.DecodeEncodeRoundTrip
  intro i _
  cases i with
  | capBit bit =>
    rw [encode, decodeWord_cmdWord]
    cases bit <;> rfl
  | decode b0 b1 b2 | showHex b0 b1 b2 =>
    obtain ⟨hlo, hmid, hhi⟩ := argByte_argOfBytes b2 b1 b0
    simp only [encode, decodeWord_cmdWord, decodeFields, hlo, hmid, hhi]
    rfl
  | setTime hours minutes seconds =>
    obtain ⟨hlo, hmid, hhi⟩ := argByte_argOfBytes hours minutes seconds
    simp only [encode, decodeWord_cmdWord, decodeFields, hlo, hmid, hhi]
    rfl
  | setNumber value | showUm value => exact decodeWord_cmdWord _ value
  | _ => rfl

/-! ### The ARG bits an operation uses (R53) -/

/-- The low three bytes of an ARG, put together again, are the ARG with its top byte cleared. -/
theorem argOfBytes_argByte (arg : BitVec 32) :
    argOfBytes (argByte arg 2) (argByte arg 1) (argByte arg 0) = arg &&& 0x00FFFFFF#32 := by
  apply BitVec.eq_of_getLsbD_eq
  intro i hi
  have hmask : (0x00FFFFFF#32).getLsbD i = decide (i < 24) := by
    rw [show 0x00FFFFFF#32 = (BitVec.allOnes 24).setWidth 32 from rfl, BitVec.getLsbD_setWidth, BitVec.getLsbD_allOnes]
    simp [hi]
  simp only [argOfBytes_getLsbD, argByte, BitVec.getLsbD_extractLsb', BitVec.getLsbD_and, hmask]
  split
  · simp_all [show i < 24 by omega]
  split
  · simp [show i - 8 < 8 by omega, show 8 + (i - 8) = i by omega, show i < 24 by omega]
  · simp [show (i - 16 < 8) ↔ i < 24 by omega, show 16 + (i - 16) = i by omega, Bool.and_comm]

/-- The lowest bit of an ARG, extended again, is the ARG with the other bits cleared. -/
theorem zeroExtend_getLsbD_zero (arg : BitVec 32) :
    (BitVec.ofBool (arg.getLsbD 0)).zeroExtend 32 = arg &&& 0x00000001#32 := by
  apply BitVec.eq_of_getLsbD_eq
  intro i hi
  cases i with
  | zero => simp
  | succ i => simp

/-- The selecting codes by the operands their operations take (R53): one bit, three bytes, a signed number, none. -/
theorem opcode_formats : ∀ opc : BitVec 4, opc.toNat ≤ 0xD →
    opc = 0x1#4 ∨ (opc = 0x4#4 ∨ opc = 0x7#4 ∨ opc = 0x9#4) ∨ (opc = 0x6#4 ∨ opc = 0x8#4) ∨
      (opc = 0x0#4 ∨ opc = 0x2#4 ∨ opc = 0x3#4 ∨ opc = 0x5#4 ∨ opc = 0xA#4 ∨ opc = 0xB#4 ∨ opc = 0xC#4 ∨
        opc = 0xD#4) := by decide

/-- A code below the reserved ones selects an operation, whose word holds the code and the ARG bits the code uses. -/
theorem decodeFields_of_selecting {opc : BitVec 4} (h : opc.toNat ≤ 0xD) (arg : BitVec 32) :
    ∃ i, decodeFields opc arg = .ok i ∧ encode i = cmdWord opc (arg &&& usedArgBits opc) := by
  rcases opcode_formats opc h with hbit | hbytes | hsigned | hnone
  · subst hbit
    exact ⟨_, rfl, congrArg (cmdWord _) (zeroExtend_getLsbD_zero arg)⟩
  · rcases hbytes with rfl | rfl | rfl <;> exact ⟨_, rfl, congrArg (cmdWord _) (argOfBytes_argByte arg)⟩
  · rcases hsigned with rfl | rfl <;> exact ⟨_, rfl, congrArg (cmdWord _) BitVec.and_allOnes.symm⟩
  · rcases hnone with rfl | rfl | rfl | rfl | rfl | rfl | rfl | rfl <;>
      exact ⟨_, rfl, congrArg (cmdWord _) BitVec.and_zero.symm⟩

/-- A code is below the reserved ones unless it is one of the two. -/
theorem opcode_selects_of_ne : ∀ opc : BitVec 4, opc ≠ 0xE#4 → opc ≠ 0xF#4 → opc.toNat ≤ 0xD := by decide

/-- A canonical word has a selecting code, and the ARG bits its code uses are all there is of its ARG. -/
theorem fields_of_canonical {w : CmdWord} (hw : CmdWord.canonical w = true) :
    (opcField w).toNat ≤ 0xD ∧ argField w &&& usedArgBits (opcField w) = argField w := by
  simp only [CmdWord.canonical, CmdWord.selects, Bool.and_eq_true, decide_eq_true_eq, beq_iff_eq] at hw
  obtain ⟨hselects, hignored⟩ := hw
  refine ⟨hselects, ?_⟩
  ext j hj
  have hbit : (argField w &&& ~~~usedArgBits (opcField w))[j] = (0 : BitVec 32)[j] := congrArg (·[j]) hignored
  simpa using hbit

/-- Settles O26: the ignored bits are 0 already, so the word is the one `decodeFields_of_selecting` gives. -/
theorem canonicalWordsAreEncodings : Obligations.CanonicalWordsAreEncodings := by
  unfold Obligations.CanonicalWordsAreEncodings
  intro w hw
  obtain ⟨hselects, hused⟩ := fields_of_canonical hw
  obtain ⟨i, hdecode, hencode⟩ := decodeFields_of_selecting hselects (argField w)
  exact ⟨i, hdecode, by rw [hencode, hused, cmdWord_fields]⟩

/-- Settles O27: by `decodeFields_of_selecting` the two operations have the same word, and `encode` is injective by the round
trip; a reserved code is refused whatever the ARG. -/
theorem ignoredArgBitsDoNotMatter : Obligations.IgnoredArgBitsDoNotMatter := by
  unfold Obligations.IgnoredArgBitsDoNotMatter
  intro v w hopc harg
  rw [decodeWord_of_opcField hopc, decodeWord_of_opcField (w := w) rfl]
  by_cases hE : opcField w = 0xE#4
  · rw [hE]; rfl
  by_cases hF : opcField w = 0xF#4
  · rw [hF]; rfl
  have hselects := opcode_selects_of_ne _ hE hF
  obtain ⟨i, hi, hencodeI⟩ := decodeFields_of_selecting hselects (argField v)
  obtain ⟨j, hj, hencodeJ⟩ := decodeFields_of_selecting hselects (argField w)
  have hword : encode i = encode j := by rw [hencodeI, hencodeJ, harg]
  calc decodeFields (opcField w) (argField v) = .ok i := hi
    _ = decodeWord (encode i) := (decodeEncodeRoundTrip i (wellFormed_eq_true i)).symm
    _ = decodeWord (encode j) := by rw [hword]
    _ = .ok j := decodeEncodeRoundTrip j (wellFormed_eq_true j)
    _ = decodeFields (opcField w) (argField w) := hj.symm

/-- Settles O28: the ten words by evaluation. -/
theorem tableWordsDecode : Obligations.TableWordsDecode := by
  unfold Obligations.TableWordsDecode
  decide

end Sys2Proof.Machine

/-! PROOFS. spec/10_state.md section 2 and 3: the two invariants (R16, R20), kept by every operation and every step, and true
after the resets (R25, R101). -/

namespace Sys2Proof.Machine

/-! ### The capture invariant (R16) -/

/-- Capture state 0 meets the invariant. -/
theorem captureInv_of_cleared {c : CaptureState} (h : CaptureCleared c) : CaptureInv c := by
  obtain ⟨hshift, hindex, hready⟩ := h
  simp [CaptureInv, hshift, hindex, hready]

/-- Storing one more bit keeps the invariant (R60): the snapshot is taken of the register that holds the 24th bit, and the
bits above the one stored stay clear. -/
theorem acceptBit_captureInv {s : State} (hinv : CaptureInv s.capture) (hr : s.capture.frameReady = false) (bit : Bool) :
    CaptureInv (s.acceptBit bit).capture := by
  have hroom := bitIndex_lt_of_not_ready hinv hr
  obtain ⟨-, -, -, hclear⟩ := hinv
  refine ⟨hroom, by simp [hr], fun hfull => ?_, fun j hj hindex => ?_⟩
  · have hcount : s.capture.bitIndex + 1 = 24 := by simpa [hr] using hfull
    simp [hcount]
  · have habove : s.capture.bitIndex < j := hindex
    rw [acceptBit_shiftRegister, setBit_getLsbD _ _ j bit hj, if_neg habove.ne']
    exact hclear j hj habove.le

/-- Every operation keeps the capture invariant. -/
theorem exec_captureInv {i : Instr} {s t : State} (hinv : CaptureInv s.capture) (h : exec i s = .next t) :
    CaptureInv t.capture := by
  rcases exec_inversion s h with ⟨v, rfl⟩ | ⟨bit, -, hr, rfl⟩ | ⟨img, rfl⟩ | ⟨-, rfl⟩ | ⟨-, rfl⟩ | ⟨-, rfl⟩ | ⟨v, rfl⟩
  · exact captureInv_of_cleared ⟨rfl, rfl, rfl⟩
  · exact acceptBit_captureInv hinv hr bit
  · exact hinv
  · exact hinv
  · rw [respond_capture, publish_capture]
    exact hinv
  · exact hinv
  · exact hinv

/-- Settles O34: an idle step changes nothing, the reset input leaves capture state 0, and a command runs one operation. -/
theorem captureInvariantKept : Obligations.CaptureInvariantKept := by
  unfold Obligations.CaptureInvariantKept
  intro s t hinv h
  rcases step_inversion h with ⟨-, rfl⟩ | ⟨rest, -, rfl⟩ | ⟨agent, w, rest, i, -, -, hexec⟩
  · exact hinv
  · exact captureInv_of_cleared ⟨rfl, rfl, rfl⟩
  · have hinv' : CaptureInv { s with inbox := rest }.capture := hinv
    exact exec_captureInv hinv' hexec

/-! ### The display invariant (R20) -/

/-- Every operation keeps the display invariant: what writes the back buffer sets `dirty`, and what clears `dirty` copies. -/
theorem exec_displayInv {i : Instr} {s t : State} (hinv : DisplayInv s.display) (h : exec i s = .next t) :
    DisplayInv t.display := by
  rcases exec_inversion s h with ⟨v, rfl⟩ | ⟨bit, -, -, rfl⟩ | ⟨img, rfl⟩ | ⟨-, rfl⟩ | ⟨-, rfl⟩ | ⟨-, rfl⟩ | ⟨v, rfl⟩
  · exact hinv
  · exact hinv
  · exact nofun
  · exact nofun
  · intro _
    rw [respond_display, publish_front, publish_back]
    cases hd : s.display.dirty with
    | true => rfl
    | false => exact hinv hd
  · exact hinv
  · exact hinv

/-- Settles O35: as for the capture invariant; the reset input leaves the display dirty. -/
theorem displayInvariantKept : Obligations.DisplayInvariantKept := by
  unfold Obligations.DisplayInvariantKept
  intro s t hinv h
  rcases step_inversion h with ⟨-, rfl⟩ | ⟨rest, -, rfl⟩ | ⟨agent, w, rest, i, -, -, hexec⟩
  · exact hinv
  · exact nofun
  · have hinv' : DisplayInv { s with inbox := rest }.display := hinv
    exact exec_displayInv hinv' hexec

/-! ### The resets (R25, R101, R103) -/

/-- Settles O36: reset leaves capture state 0 and a dirty display. -/
theorem resetSatisfiesInvariants : Obligations.ResetSatisfiesInvariants :=
  ⟨captureInv_of_cleared ⟨rfl, rfl, rfl⟩, nofun⟩

/-- Settles O37: the fields of `State.reset`, slot by slot for the buffers. -/
theorem resetValues : Obligations.ResetValues := by
  unfold Obligations.ResetValues
  exact ⟨rfl, rfl, rfl, fun i => ⟨fill_get blankGlyph i, fill_get blankGlyph i⟩, rfl, rfl⟩

/-- Settles O43: the reset input is CAP_RESET and DISP_INIT in one step, with the scan put back to slot 0. -/
theorem hardwareResetEffect : Obligations.HardwareResetEffect := by
  unfold Obligations.HardwareResetEffect
  intro s rest hin
  have hcleared : CaptureCleared (State.hardwareReset { s with inbox := rest }).capture := ⟨rfl, rfl, rfl⟩
  exact ⟨_, step_of_cons s hin, rfl, hcleared, rfl, fun i => ⟨fill_get blankGlyph i, fill_get blankGlyph i⟩, rfl, rfl,
    captureInv_of_cleared hcleared, nofun⟩

/-- Settles O52: neither operation touches what the other writes. -/
theorem startupFromAnyState : Obligations.StartupFromAnyState := by
  unfold Obligations.StartupFromAnyState
  intro s
  have hcleared : CaptureCleared s.clearCapture.initDisplay.capture := ⟨rfl, rfl, rfl⟩
  exact ⟨_, _, rfl, rfl, ⟨rfl, rfl, rfl⟩, hcleared, captureInv_of_cleared hcleared, nofun,
    fun i => ⟨fill_get blankGlyph i, fill_get blankGlyph i⟩, rfl⟩

end Sys2Proof.Machine

/-! PROOFS. spec/20_memory.md, spec/30_encoding.md section 5 and spec/60_exceptions.md: steps and runs (R9, R32, R36, R113),
the refused codes (R56, R87), the agents (R94, R95). -/

namespace Sys2Proof.Machine

/-! ### One operation, one step -/

/-- Every operation answers a next state and leaves the events to come. -/
theorem exec_next (i : Instr) (s : State) : ∃ t, exec i s = .next t ∧ t.inbox = s.inbox := by
  cases i with
  | capBit bit =>
    cases hr : s.capture.frameReady with
    | true => exact ⟨_, exec_capBit_ready s bit hr, rfl⟩
    | false => exact ⟨_, exec_capBit_accepting s bit hr, rfl⟩
  | refresh => exact ⟨_, exec_refresh s, publish_inbox s⟩
  | _ => exact ⟨_, rfl, rfl⟩

/-- Settles O44. -/
theorem everyOperationCompletes : Obligations.EveryOperationCompletes := exec_next

/-- A step on a command word runs the operation the word decodes to (R9, R32). -/
theorem step_of_command {s : State} {agent : Agent} {w : CmdWord} {rest : List Event} {i : Instr}
    (hin : s.inbox = .command agent w :: rest) (hdecode : decodeWord w = .ok i) :
    step s = exec i { s with inbox := rest } := by
  rw [step_of_cons s hin]
  simp only [applyEvent, hdecode]

/-- Settles O41. -/
theorem stepRunsDecodedOperation : Obligations.StepRunsDecodedOperation := by
  unfold Obligations.StepRunsDecodedOperation
  exact fun _ _ _ _ _ => step_of_command

/-- Settles O42. -/
theorem stepIdlesWithoutEvent : Obligations.StepIdlesWithoutEvent := step_of_empty

/-- Settles O46: `applyEvent` does not read the agent. -/
theorem agentDoesNotMatter : Obligations.AgentDoesNotMatter := by
  unfold Obligations.AgentDoesNotMatter
  intro s a b w rest
  rw [step_of_cons _ rfl, step_of_cons _ rfl]
  rfl

/-! ### Refusals and runs (R56, R87, R113) -/

/-- While the next event, if there is one, selects an operation or is a reset, a step answers a next state and takes that
event. -/
theorem step_next {s : State} (h : ∀ e ∈ s.inbox.head?, eventSelects e = true) :
    ∃ t, step s = .next t ∧ t.inbox = s.inbox.tail := by
  cases hin : s.inbox with
  | nil => exact ⟨s, step_of_empty s hin, hin⟩
  | cons e rest =>
    cases e with
    | hardwareReset => exact ⟨_, step_of_cons s hin, rfl⟩
    | command agent w =>
      have hselects : CmdWord.selects w = true := h (.command agent w) (by simp [hin])
      obtain ⟨i, hdecode, -⟩ := decodeFields_of_selecting (of_decide_eq_true hselects) (argField w)
      rw [step_of_command hin hdecode]
      exact exec_next i { s with inbox := rest }

/-- Settles O29: a reserved code decodes to no operation; with any other the step is that of `step_next`. -/
theorem onlyReservedCodesAreRefused : Obligations.OnlyReservedCodesAreRefused := by
  unfold Obligations.OnlyReservedCodesAreRefused
  refine ⟨fun s agent w rest hin hcode => ?_, fun s hcodes => ?_⟩
  · have hdecode : decodeWord w = .error (.reservedOpcode (opcField w)) := by
      rw [decodeWord]
      rcases hcode with h | h <;> rw [h] <;> rfl
    rw [step_of_cons s hin]
    simp only [applyEvent, hdecode]
  · obtain ⟨t, ht, -⟩ := step_next (s := s) fun e he => by
      cases e with
      | hardwareReset => rfl
      | command agent w =>
        obtain ⟨rest, hin⟩ := List.head?_eq_some_iff.mp he
        obtain ⟨hE, hF⟩ := hcodes agent w rest hin
        exact decide_eq_true (opcode_selects_of_ne _ hE hF)
    exact ⟨t, ht⟩

/-- Settles O45: by induction on the number of steps, each by `step_next`. -/
theorem runNeverHalts : Obligations.RunNeverHalts := by
  unfold Obligations.RunNeverHalts
  intro k
  induction k with
  | zero => exact fun s _ => ⟨s, rfl, rfl⟩
  | succ k ih =>
    intro s hselects
    obtain ⟨t, hstep, htail⟩ := step_next fun e he => hselects e (List.mem_of_mem_head? he)
    obtain ⟨u, hrun, hdrop⟩ := ih t fun e he => hselects e (List.mem_of_mem_tail (htail ▸ he))
    refine ⟨u, (run_of_next hstep k).trans hrun, ?_⟩
    rw [hdrop, htail, List.drop_tail]

/-! ### The agents' contract (R38, R95) -/

/-- Neither the bit source nor the transport is expected to clear the capture (R95). -/
theorem not_clearing_of_agentIssues {agent : Agent} {i : Instr} (hagent : agent = .bit ∨ agent = .xport)
    (h : agentIssues agent i = true) : ¬ (i = .capReset ∨ ∃ b0 b1 b2, i = .decode b0 b1 b2) := by
  rintro (rfl | ⟨b0, b1, b2, rfl⟩) <;> rcases hagent with rfl | rfl <;> cases h

/-- A command within the contract decodes to an operation its agent is expected to issue. -/
theorem decodeWord_of_eventObeysContract {agent : Agent} {w : CmdWord}
    (h : eventObeysContract (.command agent w) = true) : ∃ i, decodeWord w = .ok i ∧ agentIssues agent i = true := by
  unfold eventObeysContract at h
  cases hdecode : decodeWord w with
  | ok i => exact ⟨i, rfl, by simpa [hdecode] using h⟩
  | error e => simp [hdecode] at h

/-- Settles O50: only CAP_RESET and DECODE end a waiting frame (`exec_waiting`), and neither agent issues one. -/
theorem waitingFrameSafeFromBitAndTransport : Obligations.WaitingFrameSafeFromBitAndTransport := by
  unfold Obligations.WaitingFrameSafeFromBitAndTransport
  intro s t agent w rest hin hcontract hagent hr hstep
  obtain ⟨i, hdecode, hissues⟩ := decodeWord_of_eventObeysContract hcontract
  rw [step_of_command hin hdecode] at hstep
  have hr' : { s with inbox := rest }.capture.frameReady = true := hr
  rcases exec_waiting hr' hstep with hkept | ⟨hclearing, -⟩
  · exact hkept
  · exact absurd hclearing (not_clearing_of_agentIssues hagent hissues)

end Sys2Proof.Machine

/-! PROOFS. spec/10_state.md: who writes each element (R11, R15, R18, R19, R22, R80), what is hidden (R21, R26), and the
scan (spec/43_mux.md). -/

namespace Sys2Proof.Machine

/-! ### What each operation writes -/

/-- CAP_BIT stays within the capture. -/
theorem exec_capBit_frame {bit : Bool} {s t : State} (h : exec (.capBit bit) s = .next t) :
    t.display = s.display ∧ t.mux = s.mux := by
  cases hr : s.capture.frameReady with
  | true =>
    rw [exec_capBit_ready s bit hr] at h
    injection h with h; subst h; exact ⟨rfl, rfl⟩
  | false =>
    rw [exec_capBit_accepting s bit hr] at h
    injection h with h; subst h; exact ⟨rfl, rfl⟩

/-- Settles O19: every operation but CAP_BIT has one effect, whose `dirty` is known; CAP_BIT leaves the display. -/
theorem dirtyOverEveryOperation : Obligations.DirtyOverEveryOperation := by
  unfold Obligations.DirtyOverEveryOperation
  intro i s t h
  cases i with
  | capBit bit => exact congrArg DisplayState.dirty (exec_capBit_frame h).1
  | refresh => injection h with h; subst h; exact publish_dirty s
  | _ => injection h with h; subst h; rfl

section writers
variable {i : Instr} {s t : State} (h : exec i s = .next t)
include h

/-- The writers of the capture (R12 to R14). -/
theorem writers_of_capture (hne : t.capture ≠ s.capture) :
    i = .capReset ∨ (∃ b0 b1 b2, i = .decode b0 b1 b2) ∨ ∃ bit, i = .capBit bit ∧ s.capture.frameReady = false := by
  cases hr : s.capture.frameReady with
  | true =>
    rcases exec_waiting hr h with hkept | ⟨hclearing, -⟩
    · exact absurd hkept hne
    · exact hclearing.imp_right .inl
  | false =>
    cases i with
    | capReset => exact .inl rfl
    | decode b0 b1 b2 => exact .inr (.inl ⟨b0, b1, b2, rfl⟩)
    | capBit bit => exact .inr (.inr ⟨bit, rfl, rfl⟩)
    | refresh => injection h with h; subst h; exact absurd (publish_capture s) hne
    | _ => injection h with h; subst h; exact absurd rfl hne

/-- The one writer of `raw_bytes`: the 24th accepted bit (R15). -/
theorem writers_of_rawBytes (hne : t.capture.rawBytes ≠ s.capture.rawBytes) :
    ∃ bit, i = .capBit bit ∧ s.capture.bitIndex = 23 := by
  have hcapture : t.capture ≠ s.capture := fun heq => hne (congrArg CaptureState.rawBytes heq)
  rcases writers_of_capture h hcapture with rfl | ⟨b0, b1, b2, rfl⟩ | ⟨bit, rfl, hr⟩
  · injection h with h; subst h; exact absurd rfl hne
  · injection h with h; subst h; exact absurd rfl hne
  · refine ⟨bit, rfl, by_contra fun hcount => hne ?_⟩
    rw [exec_capBit_accepting s bit hr] at h
    injection h with h; subst h
    simp [hcount]

/-- The writers of `back_buffer` (R17). -/
theorem writers_of_back (hne : t.display.back ≠ s.display.back) : i = .dispInit ∨ isFormatting i = true := by
  cases i with
  | dispInit => exact .inl rfl
  | setNumber | setTime | showUm | showHex => exact .inr rfl
  | capBit bit => exact absurd (congrArg DisplayState.back (exec_capBit_frame h).1) hne
  | refresh => injection h with h; subst h; exact absurd (publish_back s) hne
  | _ => injection h with h; subst h; exact absurd rfl hne

/-- The writers of `front_buffer`, with the image written (R18). -/
theorem writers_of_front (hne : t.display.front ≠ s.display.front) :
    (i = .dispInit ∧ ∀ k : Fin 6, t.display.front.get k = blankGlyph) ∨
      (i = .refresh ∧ s.display.dirty = true ∧ t.display.front = s.display.back ∧ t.display.dirty = false) := by
  cases i with
  | dispInit => injection h with h; subst h; exact .inl ⟨rfl, fill_get blankGlyph⟩
  | refresh =>
    injection h with h; subst h
    rcases publish_cases s with ⟨hd, heq⟩ | ⟨-, heq⟩
    · rw [heq]
      exact .inr ⟨rfl, hd, rfl, rfl⟩
    · exact absurd (congrArg (·.display.front) heq) hne
  | capBit bit => exact absurd (congrArg DisplayState.front (exec_capBit_frame h).1) hne
  | _ => injection h with h; subst h; exact absurd rfl hne

/-- The writers of `dirty`, with the value written (R19, R80). -/
theorem writers_of_dirty (hne : t.display.dirty ≠ s.display.dirty) :
    (t.display.dirty = true ∧ (i = .dispInit ∨ isFormatting i = true)) ∨ (t.display.dirty = false ∧ i = .refresh) := by
  have hdirty := dirtyOverEveryOperation i s t h
  split at hdirty
  next hsets => exact .inl ⟨hdirty, by simpa [or_comm] using hsets⟩
  split at hdirty
  next hclears => exact .inr ⟨hdirty, by simpa using hclears⟩
  next => exact absurd hdirty hne

/-- The one writer of `mux_index` (R22). -/
theorem writers_of_mux (hne : t.mux ≠ s.mux) : i = .muxTick := by
  cases i with
  | muxTick => rfl
  | capBit bit => exact absurd (exec_capBit_frame h).2 hne
  | refresh => injection h with h; subst h; exact absurd (publish_mux s) hne
  | _ => injection h with h; subst h; exact absurd rfl hne

end writers

/-- Settles O38. -/
theorem writersOfEachElement : Obligations.WritersOfEachElement := by
  unfold Obligations.WritersOfEachElement
  exact fun _ _ _ h => ⟨writers_of_capture h, writers_of_rawBytes h, writers_of_back h, writers_of_front h,
    writers_of_dirty h, writers_of_mux h⟩

/-! ### Idempotence (R34) -/

/-- The scan always moves (R84). -/
theorem scanNext_mux_ne (s : State) : s.scanNext.mux ≠ s.mux := by
  have hmoves : ∀ k : Fin 6, (if k = 5 then 0 else k + 1) ≠ k := by decide
  exact fun heq => hmoves s.mux.muxIndex (congrArg MuxState.muxIndex heq)

/-- Apart from MUX_TICK and CAP_BIT a second time writes the values of the first again; a second REFRESH finds the display
clean. -/
theorem exec_again_sameElements {i : Instr} {s t u : State} (hmux : i ≠ .muxTick) (hbit : ¬ ∃ bit, i = .capBit bit)
    (hfirst : exec i s = .next t) (hsecond : exec i t = .next u) : SameElements t u := by
  cases i with
  | muxTick => exact absurd rfl hmux
  | capBit bit => exact absurd ⟨bit, rfl⟩ hbit
  | refresh =>
    injection hfirst with hfirst; subst hfirst
    injection hsecond with hsecond; subst hsecond
    rw [publish_of_clean (s.publish.respond 0#64) (publish_dirty s)]
    exact ⟨rfl, rfl, rfl⟩
  | _ =>
    injection hfirst with hfirst; subst hfirst
    injection hsecond with hsecond; subst hsecond
    exact ⟨rfl, rfl, rfl⟩

/-- Settles O48: the scan always moves, a second CAP_BIT is accepted or dropped by the flag, and
`exec_again_sameElements` covers the rest. -/
theorem idempotentOperations : Obligations.IdempotentOperations := by
  unfold Obligations.IdempotentOperations
  intro i s t u hfirst hsecond
  split
  next hmux =>
    subst hmux
    injection hsecond with hsecond; subst hsecond
    exact scanNext_mux_ne t
  next hmux =>
  by_cases hbit : ∃ bit, i = .capBit bit
  · obtain ⟨bit, rfl⟩ := hbit
    split
    next haccept =>
      rw [exec_capBit_accepting t bit haccept.2] at hsecond
      injection hsecond with hsecond; subst hsecond
      rfl
    next hdrop =>
      have hr : t.capture.frameReady = true := by simpa using hdrop
      rw [exec_capBit_ready t bit hr] at hsecond
      injection hsecond with hsecond; subst hsecond
      exact ⟨rfl, rfl, rfl⟩
  · rw [if_neg fun haccept => hbit haccept.1]
    exact exec_again_sameElements hmux hbit hfirst hsecond

/-! ### The scan (R83, R84) -/

/-- One tick moves the scan one slot on, modulo six. -/
theorem scanNext_muxIndex_val (s : State) : s.scanNext.mux.muxIndex.val = (s.mux.muxIndex.val + 1) % 6 := by
  have hmoves : ∀ k : Fin 6, (if k = 5 then 0 else k + 1 : Fin 6).val = (k.val + 1) % 6 := by decide
  exact hmoves s.mux.muxIndex

/-- Settles O31. -/
theorem muxTickAdvancesScan : Obligations.MuxTickAdvancesScan := by
  unfold Obligations.MuxTickAdvancesScan
  refine ⟨fun w hw => decodeWord_of_opcField hw, fun s => ⟨_, exec_muxTick s, ?_, rfl, rfl, rfl⟩⟩
  have hslot := s.mux.muxIndex.isLt
  rw [respond_mux, scanNext_muxIndex_val]
  split <;> omega

/-- Settles O32: bit j of `1 <<< k` is set exactly at j = k. -/
theorem scanOutputsShowFrontSlot : Obligations.ScanOutputsShowFrontSlot := by
  unfold Obligations.ScanOutputsShowFrontSlot
  refine fun s => ⟨rfl, fun j hj => ?_⟩
  have honehot : ∀ k j : Fin 6, (1#6 <<< k.val).getLsbD j.val = true ↔ j.val = k.val := by decide
  exact honehot s.mux.muxIndex ⟨j, hj⟩

/-- Settles O33: by induction on the number of ticks. -/
theorem ticksVisitSlotsInTurn : Obligations.TicksVisitSlotsInTurn := by
  unfold Obligations.TicksVisitSlotsInTurn
  intro k
  induction k with
  | zero => exact fun s => ⟨s, rfl, (Nat.mod_eq_of_lt s.mux.muxIndex.isLt).symm, rfl, rfl⟩
  | succ k ih =>
    intro s
    obtain ⟨t, hrun, hslot, hdisplay, hcapture⟩ := ih (s.scanNext.respond 0#64)
    refine ⟨t, hrun, ?_, hdisplay, hcapture⟩
    rw [hslot, respond_mux, scanNext_muxIndex_val]
    omega

/-- Settles O51. -/
theorem levelOutputsAreTheFlags : Obligations.LevelOutputsAreTheFlags := by
  unfold Obligations.LevelOutputsAreTheFlags
  exact fun s => ⟨rfl, rfl, ⟨_, exec_capReady s, flagResp_eq_one_iff _⟩, ⟨_, exec_needsUpdate s, flagResp_eq_one_iff _⟩⟩

/-! ### Hidden elements (R21, R26, R104) -/

/-- A refresh neither reads nor writes the capture (R76). -/
theorem publish_withCapture (s : State) (c : CaptureState) :
    State.publish { s with capture := c } = { s.publish with capture := c } := by
  unfold State.publish
  split <;> rfl

/-- Settles O39: no operation's response, display or scan is computed from the two elements. -/
theorem shiftRegisterAndIndexAreHidden : Obligations.ShiftRegisterAndIndexAreHidden := by
  unfold Obligations.ShiftRegisterAndIndexAreHidden
  intro i s t f n h
  cases i with
  | capBit bit =>
    cases hr : s.capture.frameReady with
    | true =>
      rw [exec_capBit_ready s bit hr] at h
      injection h with h; subst h
      exact ⟨_, exec_capBit_ready _ bit hr, rfl, rfl, rfl⟩
    | false =>
      rw [exec_capBit_accepting s bit hr] at h
      injection h with h; subst h
      exact ⟨_, exec_capBit_accepting _ bit hr, rfl, rfl, rfl⟩
  | refresh =>
    injection h with h; subst h
    refine ⟨_, exec_refresh _, ?_⟩
    rw [publish_withCapture]
    exact ⟨rfl, rfl, rfl⟩
  | _ => injection h with h; subst h; exact ⟨_, rfl, rfl, rfl, rfl⟩

/-- If each operation of a sequence takes related states to related states, so does the whole sequence. -/
theorem execAll_related {R : State → State → Prop} {ops : List Instr}
    (hexec : ∀ i ∈ ops, ∀ s u, R s u → ∃ t v, exec i s = .next t ∧ exec i u = .next v ∧ R t v) {s u : State}
    (h : R s u) : ∃ t v, execAll ops s = .next t ∧ execAll ops u = .next v ∧ R t v := by
  induction ops generalizing s u with
  | nil => exact ⟨s, u, rfl, rfl, h⟩
  | cons i rest ih =>
    obtain ⟨t, v, hs, hu, h'⟩ := hexec i (List.mem_cons_self ..) s u h
    obtain ⟨t', v', hs', hu', h''⟩ := ih (fun j hj => hexec j (List.mem_cons_of_mem _ hj)) h'
    exact ⟨t', v', by simp only [execAll, hs, hs'], by simp only [execAll, hu, hu'], h''⟩

/-- `u` is `s` but for the image in `back_buffer`. -/
def SameButBack (s u : State) : Prop := ∃ img, u = { s with display := { s.display with back := img } }

/-- No operation but REFRESH carries `back_buffer` into anything else (R21). -/
theorem exec_sameButBack {i : Instr} (hi : i ≠ .refresh) {s u : State} (h : SameButBack s u) :
    ∃ t v, exec i s = .next t ∧ exec i u = .next v ∧ SameButBack t v := by
  obtain ⟨img, rfl⟩ := h
  cases i with
  | refresh => exact absurd rfl hi
  | capBit bit =>
    cases hr : s.capture.frameReady with
    | true => exact ⟨_, _, exec_capBit_ready s bit hr, exec_capBit_ready _ bit hr, img, rfl⟩
    | false => exact ⟨_, _, exec_capBit_accepting s bit hr, exec_capBit_accepting _ bit hr, img, rfl⟩
  | setNumber value => exact ⟨_, _, rfl, rfl, numberImage value, rfl⟩
  | setTime hours minutes seconds => exact ⟨_, _, rfl, rfl, timeImage hours minutes seconds, rfl⟩
  | showUm value => exact ⟨_, _, rfl, rfl, micrometreImage value, rfl⟩
  | showHex b0 b1 b2 => exact ⟨_, _, rfl, rfl, hexImage b0 b1 b2, rfl⟩
  | dispInit => exact ⟨_, _, rfl, rfl, Image.fill blankGlyph, rfl⟩
  | _ => exact ⟨_, _, rfl, rfl, img, rfl⟩

/-- Settles O40: the relation `SameButBack` over the whole sequence, and all that is visible is equal under it. -/
theorem backBufferIsHiddenUntilRefresh : Obligations.BackBufferIsHiddenUntilRefresh := by
  unfold Obligations.BackBufferIsHiddenUntilRefresh
  intro ops s img hops
  obtain ⟨t, _, ht, hu, img', rfl⟩ :=
    execAll_related (fun i hi _ _ => exec_sameButBack (ne_of_mem_of_not_mem hi hops)) (s := s) ⟨img, rfl⟩
  exact ⟨t, _, ht, hu, rfl, rfl, rfl, rfl, rfl, rfl, rfl⟩

/-- `u` is `s` but for `raw_bytes`, and not even for these while a frame is ready. -/
def SameButStaleRaw (s u : State) : Prop :=
  ∃ raw, u = { s with capture := { s.capture with rawBytes := raw } } ∧
    (s.capture.frameReady = true → raw = s.capture.rawBytes)

/-- No operation reads `raw_bytes` while no frame is ready, and the bit that completes a frame writes them (R104). -/
theorem exec_sameButStaleRaw (i : Instr) {s u : State} (h : SameButStaleRaw s u) :
    ∃ t v, exec i s = .next t ∧ exec i u = .next v ∧ SameButStaleRaw t v := by
  obtain ⟨raw, rfl, hraw⟩ := h
  cases hr : s.capture.frameReady with
  | true =>
    obtain ⟨t, ht, -⟩ := exec_next i s
    rw [hraw hr]
    exact ⟨t, t, ht, ht, t.capture.rawBytes, rfl, fun _ => rfl⟩
  | false =>
    cases i with
    | capBit bit =>
      refine ⟨_, _, exec_capBit_accepting s bit hr, exec_capBit_accepting _ bit hr, _, rfl, fun hfull => ?_⟩
      have hcount : s.capture.bitIndex + 1 = 24 := by simpa [hr] using hfull
      simp [hcount]
    | capRaw =>
      have hstale : State.rawAnswer { s with capture := { s.capture with rawBytes := raw } } = s.rawAnswer := by
        simp [State.rawAnswer, hr]
      refine ⟨_, _, exec_capRaw s, exec_capRaw _, raw, ?_, by simp [hr]⟩
      rw [hstale]
      rfl
    | refresh =>
      refine ⟨_, _, exec_refresh s, exec_refresh _, raw, ?_, by simp [hr]⟩
      rw [publish_withCapture, respond_capture, publish_capture]
      rfl
    | _ => exact ⟨_, _, rfl, rfl, raw, rfl, by simp [hr]⟩

/-- Settles O53: the relation `SameButStaleRaw` over the whole sequence. -/
theorem powerOnRawBytesUnobservable : Obligations.PowerOnRawBytesUnobservable := by
  unfold Obligations.PowerOnRawBytesUnobservable
  intro ops s raw hr
  obtain ⟨t, _, ht, hu, raw', rfl, hraw⟩ :=
    execAll_related (fun i _ _ _ => exec_sameButStaleRaw i) (s := s) ⟨raw, rfl, by simp [hr]⟩
  exact ⟨t, _, ht, hu, rfl, rfl, rfl, rfl, rfl, rfl, hraw⟩

end Sys2Proof.Machine

/-! PROOFS. spec/40_capture.md section 3, spec/60_exceptions.md section 2 and spec/70_reset_and_hazards.md section 2: sequences
of bits (R63, R64, R105 to R107) and the orders of simultaneous events (R91). -/

namespace Sys2Proof.Machine

/-! ### Sequences of operations -/

theorem execAll_cons_of_next {i : Instr} {rest : List Instr} {s t : State} (h : exec i s = .next t) :
    execAll (i :: rest) s = execAll rest t := by
  simp only [execAll, h]

theorem execAll_append_of_next {first rest : List Instr} {s t : State} (h : execAll first s = .next t) :
    execAll (first ++ rest) s = execAll rest t := by
  induction first generalizing s with
  | nil =>
    injection h with h; subst h; rfl
  | cons i first ih =>
    obtain ⟨u, hu, -⟩ := exec_next i s
    rw [execAll_cons_of_next hu] at h
    rw [List.cons_append, execAll_cons_of_next hu, ih h]

/-! ### Bits offered to a waiting frame (R64, R105) -/

/-- While a frame waits every bit is dropped. -/
theorem execAll_capBits_waiting (bits : List Bool) {s : State} (hr : s.capture.frameReady = true) :
    ∃ t, execAll (bits.map Instr.capBit) s = .next t ∧ SameElements s t := by
  induction bits generalizing s with
  | nil => exact ⟨s, rfl, rfl, rfl, rfl⟩
  | cons bit bits ih =>
    obtain ⟨t, ht, hsame⟩ := ih (s := s.respond 0#64) hr
    exact ⟨t, (execAll_cons_of_next (exec_capBit_ready s bit hr)).trans ht, hsame⟩

/-- Settles O6. -/
theorem waitingFrameDropsBits : Obligations.WaitingFrameDropsBits := by
  unfold Obligations.WaitingFrameDropsBits
  exact fun bits _ => execAll_capBits_waiting bits

/-! ### Bits offered from capture state 0 (R63) -/

/-- The capture once `bits` were offered to capture state 0, `raw` being its `raw_bytes` before them. -/
structure CapturedFrom (raw : RawBytes) (bits : List Bool) (c : CaptureState) : Prop where
  ready : c.frameReady = decide (24 ≤ bits.length)
  index : c.bitIndex = min bits.length 24
  shift : ∀ j, j < 24 → c.shiftRegister.getLsbD j = bits.getD j false
  raw : c.rawBytes = if 24 ≤ bits.length then snapshot c.shiftRegister else raw

theorem capturedFrom_nil {c : CaptureState} (h : CaptureCleared c) : CapturedFrom c.rawBytes [] c := by
  obtain ⟨hshift, hindex, hready⟩ := h
  exact ⟨hready, hindex, fun j _ => by simp [hshift], rfl⟩

theorem getD_concat (bits : List Bool) (bit : Bool) (j : Nat) :
    (bits ++ [bit]).getD j false = if j = bits.length then bit else bits.getD j false := by
  rcases Nat.lt_trichotomy j bits.length with h | h | h
  · rw [List.getD_append _ _ _ _ h, if_neg h.ne]
  · simp [h]
  · rw [if_neg h.ne', List.getD_eq_default _ _ h.le, List.getD_eq_default]
    simpa using h

/-- One more bit: dropped when 24 are stored already, stored next to the last one otherwise. -/
theorem capturedFrom_concat {raw : RawBytes} {bits : List Bool} {s : State} (h : CapturedFrom raw bits s.capture)
    (bit : Bool) :
    ∃ t, exec (.capBit bit) s = .next t ∧ CapturedFrom raw (bits ++ [bit]) t.capture ∧ t.display = s.display ∧
      t.mux = s.mux := by
  obtain ⟨hready, hindex, hshift, hraw⟩ := h
  have hlength : (bits ++ [bit]).length = bits.length + 1 := by simp
  by_cases hfull : 24 ≤ bits.length
  · have hr : s.capture.frameReady = true := by simpa [hfull] using hready
    have hfull' : 24 ≤ (bits ++ [bit]).length := by omega
    refine ⟨_, exec_capBit_ready s bit hr, ⟨?_, ?_, fun j hj => ?_, ?_⟩, rfl, rfl⟩
    · rw [respond_capture, hr, decide_eq_true hfull']
    · rw [respond_capture, hindex]
      omega
    · rw [getD_concat, if_neg (by omega)]
      exact hshift j hj
    · rw [if_pos hfull] at hraw
      rw [if_pos hfull']
      exact hraw
  · have hr : s.capture.frameReady = false := by simpa [hfull] using hready
    have hroom : s.capture.bitIndex = bits.length := by omega
    have hcount : 23 ≤ bits.length ↔ s.capture.bitIndex = 23 := by omega
    refine ⟨_, exec_capBit_accepting s bit hr, ⟨?_, ?_, fun j hj => ?_, ?_⟩, rfl, rfl⟩
    · simp [hcount, hr]
    · rw [respond_capture, acceptBit_bitIndex]
      omega
    · rw [getD_concat, ← hshift j hj, ← hroom]
      exact setBit_getLsbD _ _ j bit hj
    · rw [if_neg hfull] at hraw
      simp [hcount, hraw]

/-- Any number of bits, from capture state 0. -/
theorem execAll_capBits_cleared (bits : List Bool) {s : State} (hs : CaptureCleared s.capture) :
    ∃ t, execAll (bits.map Instr.capBit) s = .next t ∧ CapturedFrom s.capture.rawBytes bits t.capture ∧
      t.display = s.display ∧ t.mux = s.mux := by
  induction bits using List.reverseRecOn with
  | nil => exact ⟨s, rfl, capturedFrom_nil hs, rfl, rfl⟩
  | append_singleton bits bit ih =>
    obtain ⟨t, ht, hcaptured, hdisplay, hmux⟩ := ih
    obtain ⟨u, hu, hcaptured', hdisplay', hmux'⟩ := capturedFrom_concat hcaptured bit
    refine ⟨u, ?_, hcaptured', hdisplay'.trans hdisplay, hmux'.trans hmux⟩
    rw [List.map_append, execAll_append_of_next ht]
    exact execAll_cons_of_next hu

/-- From 24 bits on the snapshot, reassembled, holds the first 24 bits in order (R40, R44). -/
theorem CapturedFrom.frame {raw : RawBytes} {bits : List Bool} {c : CaptureState} (h : CapturedFrom raw bits c)
    (hfull : 24 ≤ bits.length) {j : Nat} (hj : j < 24) :
    (c.rawBytes.b2 ++ c.rawBytes.b1 ++ c.rawBytes.b0).getLsbD j = bits.getD j false := by
  have hraw := h.raw
  rw [if_pos hfull] at hraw
  have hframe : c.rawBytes.b2 ++ c.rawBytes.b1 ++ c.rawBytes.b0 = c.shiftRegister := by
    rw [hraw]
    exact frame24_snapshot c.shiftRegister
  rw [hframe, h.shift j hj]

/-- Settles O5. -/
theorem frameCompletesOnTwentyFourthBit : Obligations.FrameCompletesOnTwentyFourthBit := by
  unfold Obligations.FrameCompletesOnTwentyFourthBit
  intro bits s hs
  obtain ⟨t, ht, hcaptured, hdisplay, hmux⟩ := execAll_capBits_cleared bits hs
  refine ⟨t, ht, hdisplay, hmux, by simp [hcaptured.ready], hcaptured.index, hcaptured.shift,
    fun hfull _ => hcaptured.frame hfull, fun hpartial => ?_⟩
  rw [hcaptured.raw, if_neg hpartial.not_ge]

/-- Settles O55: the early bits are dropped, DECODE leaves capture state 0, and the other 24 bits are one frame. -/
theorem lateDecodeMisalignsFrames : Obligations.LateDecodeMisalignsFrames := by
  unfold Obligations.LateDecodeMisalignsFrames
  intro s early late next b0 b1 b2 hr _ _ hsplit hnext
  obtain ⟨w, hw, -⟩ := execAll_capBits_waiting early hr
  have hcleared : CaptureCleared (w.clearCapture.respond (measurementResp (decodeFrame b0 b1 b2))).capture :=
    ⟨rfl, rfl, rfl⟩
  obtain ⟨t, ht, hcaptured, -, -⟩ := execAll_capBits_cleared (late ++ next) hcleared
  have hfull : 24 ≤ (late ++ next).length := by rw [List.length_append]; omega
  refine ⟨t, ?_, by simp only [hcaptured.ready, hfull, decide_true], fun j hj => ?_⟩
  · rw [List.append_assoc, List.append_assoc, ← List.map_append, execAll_append_of_next hw]
    exact (execAll_cons_of_next (exec_decode w b0 b1 b2)).trans ht
  · rw [hcaptured.frame hfull hj]
    split
    next h => exact List.getD_append _ _ _ _ h
    next h => exact List.getD_append_right _ _ _ _ (Nat.le_of_not_lt h)

/-! ### FEED24 (R58) -/

/-- What is left of FEED24 from its k-th bit on. -/
theorem pseudoRunFrom_feed24 (f : Frame) (fuel k : Nat) (s : State) (h : k + fuel ≤ 24) :
    pseudoRunFrom (.feed24 f) fuel k s =
      execAll ((List.range' k fuel).map fun j => Instr.capBit (f.getLsbD j)) s := by
  induction fuel generalizing k s with
  | zero => rfl
  | succ fuel ih =>
    have hissue : pseudoIssue (.feed24 f) k s.resp = some (.capBit (f.getLsbD k)) := if_pos (by omega)
    obtain ⟨t, ht, -⟩ := exec_next (.capBit (f.getLsbD k)) s
    rw [List.range'_succ, List.map_cons, execAll_cons_of_next ht, ← ih (k + 1) t (by omega)]
    simp only [pseudoRunFrom, hissue, ht]

/-- Settles O30: all 24 bits are left at the start. -/
theorem feed24IsTwentyFourBits : Obligations.Feed24IsTwentyFourBits := by
  unfold Obligations.Feed24IsTwentyFourBits
  intro f s
  rw [List.range_eq_range']
  exact pseudoRunFrom_feed24 f 24 0 s le_rfl

/-- Settles O54: FEED24 offers the 24 bits of the frame to capture state 0. -/
theorem resetThenFrameIsCaptured : Obligations.ResetThenFrameIsCaptured := by
  unfold Obligations.ResetThenFrameIsCaptured
  intro s f
  have hcleared : CaptureCleared (s.clearCapture.respond 0#64).capture := ⟨rfl, rfl, rfl⟩
  obtain ⟨t, ht, hcaptured, hdisplay, -⟩ := execAll_capBits_cleared ((List.range 24).map f.getLsbD) hcleared
  rw [List.map_map] at ht
  have hr : t.capture.frameReady = true := hcaptured.ready
  have hshift : t.capture.shiftRegister = f := by
    apply BitVec.eq_of_getLsbD_eq
    intro j hj
    rw [hcaptured.shift j hj]
    simp [List.getD, hj]
  have hraw : t.capture.rawBytes = snapshot f := by
    rw [← hshift]
    exact hcaptured.raw
  refine ⟨_, t, _, exec_capReset s, (feed24IsTwentyFourBits f _).trans ht, hr, hshift, hraw, hdisplay, exec_capRaw t, ?_⟩
  rw [respond_resp, rawAnswer_of_ready t hr, hraw, frame24_snapshot]
  rfl

/-! ### Simultaneous events (R91) -/

theorem execAll_pair {i j : Instr} {s t u : State} (hi : exec i s = .next t) (hj : exec j t = .next u) :
    execAll [i, j] s = .next u := by
  rw [execAll_cons_of_next hi, execAll_cons_of_next hj, execAll]

/-- A bit after a capture reset is stored at position 0 (R91 b, c). -/
theorem acceptBit_of_cleared {s : State} (h : CaptureCleared s.capture) (bit : Bool) :
    (s.acceptBit bit).capture.bitIndex = 1 ∧
      (s.acceptBit bit).capture.shiftRegister = (BitVec.ofBool bit).zeroExtend 24 := by
  obtain ⟨hshift, hindex, -⟩ := h
  rw [acceptBit_bitIndex, acceptBit_shiftRegister, hshift, hindex]
  exact ⟨rfl, by cases bit <;> rfl⟩

/-- Settles O49: the state between the two operations tells what the second one finds. -/
theorem simultaneousEventOrders : Obligations.SimultaneousEventOrders := by
  unfold Obligations.SimultaneousEventOrders
  refine ⟨fun s bit hr hindex => ?_, fun s bit b0 b1 b2 hr => ?_, fun s bit => ?_,
    fun s i hi => ?_⟩
  · refine ⟨⟨_, execAll_pair (exec_capBit_accepting s bit hr) (exec_capReady _), ?_⟩, _, exec_capReady s, ?_⟩
    · simp [hindex, flagResp_eq]
    · simp [hr, flagResp_eq]
  · refine ⟨⟨_, execAll_pair (exec_capBit_ready s bit hr) (exec_decode _ b0 b1 b2), rfl, rfl, rfl⟩,
      _, execAll_pair (exec_decode s b0 b1 b2) (exec_capBit_accepting _ bit rfl), ?_⟩
    exact acceptBit_of_cleared ⟨rfl, rfl, rfl⟩ bit
  · obtain ⟨t, ht, -⟩ := exec_next (.capBit bit) s
    refine ⟨⟨_, execAll_pair ht (exec_capReset t), rfl⟩,
      _, execAll_pair (exec_capReset s) (exec_capBit_accepting _ bit rfl), ?_⟩
    exact (acceptBit_of_cleared ⟨rfl, rfl, rfl⟩ bit).1
  · obtain ⟨img, hexec⟩ := exec_formatting hi
    exact ⟨_, hexec s, ⟨_, execAll_pair (hexec s) (exec_refresh _), rfl, rfl⟩,
      _, execAll_pair (exec_refresh s) (hexec _), rfl, rfl, publish_front s⟩

end Sys2Proof.Machine

/-! PROOFS. spec/41_decoder.md: the frame decoder and DECODE (R65 to R68). -/

namespace Sys2Proof.Machine

/-- Negation changes the sign alone, away from -2^31. -/
theorem toInt_zero_sub {v : I32} (h : v.toInt.natAbs < 2 ^ 31) : (0#32 - v).toInt = -v.toInt := by
  rw [BitVec.zero_sub, BitVec.toInt_neg]
  exact Int.bmod_eq_of_le (by omega) (by omega)

section decodeFrame
variable (b0 b1 b2 : Byte)

/-- The magnitude is the low two bytes of the frame (R65). -/
theorem frame24_magnitude : ((frame24 b0 b1 b2).extractLsb' 0 16).toNat = b0.toNat + 256 * b1.toNat := by
  rw [BitVec.extractLsb'_toNat, frame24_toNat, Nat.shiftRight_zero]
  omega

/-- The sign flag is bit 4 of byte 2 (R65). -/
theorem frame24_sign : (frame24 b0 b1 b2).getLsbD signBit = b2.getLsbD 4 := by
  rw [frame24, BitVec.getLsbD_append, BitVec.getLsbD_append]
  rfl

/-- The relative value as a signed number (R65): no product of a magnitude and 10 reaches 2^31. -/
theorem decodeFrame_relative_toInt :
    (decodeFrame b0 b1 b2).relativeMicrometres.toInt =
      if b2.getLsbD 4 then -((b0.toNat + 256 * b1.toNat : Nat) * 10 : Int)
      else ((b0.toNat + 256 * b1.toNat : Nat) * 10 : Int) := by
  have hmag := frame24_magnitude b0 b1 b2
  have h0 := b0.isLt
  have h1 := b1.isLt
  have hproduct : (((frame24 b0 b1 b2).extractLsb' 0 16).zeroExtend 32 * tickUm).toNat =
      (b0.toNat + 256 * b1.toNat) * 10 := by
    rw [BitVec.toNat_mul, BitVec.zeroExtend_eq_setWidth, BitVec.toNat_setWidth, hmag, show tickUm.toNat = 10 from rfl]
    omega
  have hsigned : (((frame24 b0 b1 b2).extractLsb' 0 16).zeroExtend 32 * tickUm).toInt =
      ((b0.toNat + 256 * b1.toNat : Nat) * 10 : Int) := by
    rw [BitVec.toInt_eq_toNat_of_lt (by omega), hproduct]
    rfl
  simp only [decodeFrame, frame24_sign]
  split
  · rw [toInt_zero_sub (by omega), hsigned]
  · exact hsigned

/-- Its absolute value is ten times the magnitude, and it is negative when the flag is set and the magnitude is not 0. -/
theorem decodeFrame_relative_sign_magnitude :
    (decodeFrame b0 b1 b2).relativeMicrometres.toInt.natAbs = (b0.toNat + 256 * b1.toNat) * 10 ∧
      ((decodeFrame b0 b1 b2).relativeMicrometres.toInt < 0 ↔ b2.getLsbD 4 = true ∧ b0.toNat + 256 * b1.toNat ≠ 0) := by
  rw [decodeFrame_relative_toInt]
  cases b2.getLsbD 4 with
  | true =>
    simp only [if_true, true_and]
    omega
  | false =>
    simp only [Bool.false_eq_true, if_false, false_and, iff_false]
    omega

end decodeFrame

/-- DECODE and SHOW_HEX read three bytes from ARG bytes 0, 1 and 2 (R53). -/
theorem argBytes_argField (w : CmdWord) :
    argByte (argField w) 0 = w.extractLsb' 0 8 ∧ argByte (argField w) 1 = w.extractLsb' 8 8 ∧
      argByte (argField w) 2 = w.extractLsb' 16 8 :=
  ⟨argByte_argField w 0 (by decide), argByte_argField w 1 (by decide), argByte_argField w 2 (by decide)⟩

/-- DECODE's response: the relative value below the absolute one (R54). -/
theorem measurementResp_fields (m : DecodedMeasurement) :
    (measurementResp m).extractLsb' 0 32 = m.relativeMicrometres ∧
      (measurementResp m).extractLsb' 32 32 = m.absoluteMicrometres := by
  rw [measurementResp]
  constructor <;>
    simp (disch := decide) only [BitVec.extractLsb'_append_eq_of_le, BitVec.extractLsb'_append_eq_right,
      BitVec.extractLsb'_eq_self, Nat.reduceSub]

/-- Settles O7. -/
theorem decodeReturnsMeasurement : Obligations.DecodeReturnsMeasurement := by
  unfold Obligations.DecodeReturnsMeasurement
  refine ⟨fun b0 b1 b2 => ⟨decodeFrame_relative_toInt b0 b1 b2, rfl⟩, fun w hw => ?_, fun b0 b1 b2 s => ?_⟩
  · obtain ⟨hlo, hmid, hhi⟩ := argBytes_argField w
    rw [decodeWord_of_opcField hw, ← hlo, ← hmid, ← hhi]
    rfl
  · obtain ⟨hrelative, habsolute⟩ := measurementResp_fields (decodeFrame b0 b1 b2)
    exact ⟨_, exec_decode s b0 b1 b2, hrelative, habsolute, rfl, rfl, rfl, rfl, rfl, rfl⟩

/-- Settles O8: a magnitude is at most 65535, and the sign flag alone decides the sign. -/
theorem decodeRangeAndNegation : Obligations.DecodeRangeAndNegation := by
  unfold Obligations.DecodeRangeAndNegation
  intro b0 b1 b2
  have h0 := b0.isLt
  have h1 := b1.isLt
  have hflip : (b2 ^^^ 0x10#8).getLsbD 4 = !b2.getLsbD 4 := by simp
  simp only [decodeFrame_relative_toInt, hflip]
  cases b2.getLsbD 4 with
  | true => simp; omega
  | false => simp; omega

/-- Settles O9: the relative value depends on the bytes 0 and 1 and the sign flag alone. -/
theorem decodeIgnoresReservedBits : Obligations.DecodeIgnoresReservedBits := by
  unfold Obligations.DecodeIgnoresReservedBits
  refine ⟨fun b0 b1 b2 c0 c1 c2 h0 h1 hsign => ?_, fun b2 => ?_⟩
  · have hrelative : (decodeFrame c0 c1 c2).relativeMicrometres = (decodeFrame b0 b1 b2).relativeMicrometres := by
      apply BitVec.eq_of_toInt_eq
      rw [decodeFrame_relative_toInt, decodeFrame_relative_toInt, h0, h1, hsign]
    exact congrArg (DecodedMeasurement.mk · 0#32) hrelative
  · apply BitVec.eq_of_toInt_eq
    rw [decodeFrame_relative_toInt]
    simp

end Sys2Proof.Machine

/-! PROOFS. spec/42_display.md: the digit loop and the images of SET_NUMBER, SHOW_UM and SHOW_HEX (R72, R74, R75, R79, R81,
R82). -/

namespace Sys2Proof.Machine

/-! ### The digit loop (R72, R74) -/

theorem length_digits_of_ne_zero {n : Nat} (h : n ≠ 0) :
    (Nat.digits 10 n).length = (Nat.digits 10 (n / 10)).length + 1 := by
  rw [Nat.digits_def' (by decide) (Nat.pos_of_ne_zero h), List.length_cons]

/-- What `lowDigit` shows of a decimal digit is what it shows of the number without the digits below. -/
theorem lowDigit_getD_digits (n k : Nat) : lowDigit ((Nat.digits 10 n).getD k 0) = lowDigit (n / 10 ^ k) := by
  rw [Nat.getD_digits n k (by decide), lowDigit_mod_ten]

section writeDigits
variable (free i n : Nat) (img : Image)

/-- The loop takes one slot for each digit, as long as there are slots. -/
theorem writeDigits_nextSlot : (writeDigits free i n img).nextSlot = i + min free (Nat.digits 10 n).length := by
  induction free generalizing i n img with
  | zero => simp [writeDigits]
  | succ free ih =>
    by_cases h : n = 0
    · simp [h]
    · rw [writeDigits_step free i n img h, ih, length_digits_of_ne_zero h]
      omega

/-- The digits for which no slot was left. -/
theorem writeDigits_rest : (writeDigits free i n img).rest = n / 10 ^ free := by
  induction free generalizing i n img with
  | zero => simp [writeDigits]
  | succ free ih =>
    by_cases h : n = 0
    · simp [h]
    · rw [writeDigits_step free i n img h, ih, Nat.div_div_eq_div_mul, Nat.pow_succ']

/-- The slots taken hold the digits from the last one on, the others what they held. -/
theorem writeDigits_get (j : Fin 6) :
    (writeDigits free i n img).image.get j =
      if i ≤ j.val ∧ j.val < i + min free (Nat.digits 10 n).length then lowDigit (n / 10 ^ (j.val - i)) else img.get j := by
  induction free generalizing i n img with
  | zero =>
    rw [if_neg (by omega)]
    rfl
  | succ free ih =>
    by_cases h : n = 0
    · simp [h, show ¬ (i ≤ j.val ∧ j.val < i) by omega]
    · rw [writeDigits_step free i n img h, ih, length_digits_of_ne_zero h, set_get]
      rcases Nat.lt_trichotomy j.val i with hj | hj | hj
      · rw [if_neg (by omega), if_neg (by omega), if_neg (by omega)]
      · rw [if_neg (by omega), if_pos hj, if_pos (by omega), hj, Nat.sub_self, Nat.pow_zero, Nat.div_one]
      · have hpow : n / 10 ^ (j.val - i) = n / 10 / 10 ^ (j.val - (i + 1)) := by
          rw [Nat.div_div_eq_div_mul, ← Nat.pow_succ']
          congr 2
          omega
        rw [hpow, if_neg (by omega : ¬ j.val = i)]
        congr 1
        simp only [eq_iff_iff]
        omega

end writeDigits

/-! ### Absolute value and sign (R79) -/

/-- Settles O22. -/
theorem absoluteValueOfOperand : Obligations.AbsoluteValueOfOperand := by
  unfold Obligations.AbsoluteValueOfOperand
  refine fun v => ⟨abs32_le v, fun hv => ?_, fun hv => ?_, fun hv => by rw [hv]; rfl⟩
  · rw [abs32]
    omega
  · rw [abs32]
    omega

/-! ### SET_NUMBER (R72) -/

/-- Zero shows one 0. -/
theorem numberImage_get_zero {value : I32} (h : value.toInt = 0) (i : Fin 6) :
    (numberImage value).get i = if i = 0 then digit 0 else blankGlyph := by
  have habs : abs32 value = 0 := by rw [abs32, h]; rfl
  rw [numberImage, if_pos habs, set_get, fill_get]
  simp only [Fin.val_eq_zero_iff]
  rfl

/-- Any other number shows what the loop leaves, the minus on the loop's next slot where there is one. -/
theorem numberImage_of_ne_zero {value : I32} (h : value.toInt ≠ 0) :
    numberImage value =
      if isNegative value ∧ (writeDigits 6 0 (abs32 value) (Image.fill blankGlyph)).nextSlot < 6 then
        (writeDigits 6 0 (abs32 value) (Image.fill blankGlyph)).image.set
          (writeDigits 6 0 (abs32 value) (Image.fill blankGlyph)).nextSlot minusGlyph
      else (writeDigits 6 0 (abs32 value) (Image.fill blankGlyph)).image :=
  if_neg (Int.natAbs_ne_zero.mpr h)

theorem isNegative_iff (value : I32) : isNegative value = true ↔ value.toInt < 0 := decide_eq_true_iff

/-- Slot by slot: the digits of the magnitude, the minus directly above them, blank elsewhere. -/
theorem numberImage_get {value : I32} (h : value.toInt ≠ 0) (i : Fin 6) :
    (numberImage value).get i =
      if i.val < (Nat.digits 10 value.toInt.natAbs).length then lowDigit (value.toInt.natAbs / 10 ^ i.val)
      else if value.toInt < 0 ∧ i.val = (Nat.digits 10 value.toInt.natAbs).length then minusGlyph
      else blankGlyph := by
  have hi := i.isLt
  have hdigits := writeDigits_get 6 0 (abs32 value) (Image.fill blankGlyph) i
  rw [numberImage_of_ne_zero h, writeDigits_nextSlot]
  simp only [isNegative_iff, fill_get, Nat.zero_le, true_and, Nat.zero_add, Nat.sub_zero, abs32] at hdigits ⊢
  generalize (Nat.digits 10 value.toInt.natAbs).length = count at *
  have hslot : i.val < min 6 count ↔ i.val < count := by omega
  simp only [hslot] at hdigits
  by_cases hminus : value.toInt < 0 ∧ min 6 count < 6
  · have htop : i.val = min 6 count ↔ i.val = count := by omega
    rw [if_pos hminus, set_get, hdigits]
    simp only [htop, hminus.1, true_and]
    exact ite_ite_comm _ _ _ _ (by omega : i.val = count → ¬ i.val < count)
  · rw [if_neg hminus, hdigits, if_neg fun habove : _ ∧ _ => hminus ⟨habove.1, by omega⟩]

/-- Settles O11. -/
theorem setNumberImage : Obligations.SetNumberImage := by
  unfold Obligations.SetNumberImage
  refine ⟨fun w hw => decodeWord_of_opcField hw, fun value s => ⟨_, exec_setNumber s value, numberImage_get_zero,
    fun h i => ?_, rfl, rfl, rfl, rfl, rfl⟩⟩
  rw [lowDigit_getD_digits]
  exact numberImage_get h i

/-! ### SHOW_UM (R74) -/

/-- The count of hundredths as SHOW_UM writes it: three slots at least, the point on slot 2, then the digit loop. -/
def hundredthsRun (h : Nat) : DigitRun :=
  writeDigits 3 3 (h / 10 / 10 / 10)
    ((((Image.fill blankGlyph).set 0 (lowDigit h)).set 1 (lowDigit (h / 10))).set 2 (withPoint (lowDigit (h / 10 / 10))))

/-- The glyph of slot i in a number with the point on slot 2. -/
def hundredthsGlyph (h : Nat) (i : Fin 6) : Byte :=
  if i = 2 then withPoint (lowDigit (h / 10 ^ 2)) else lowDigit (h / 10 ^ i.val)

/-- SHOW_UM writes the hundredths, then the sign over them. -/
theorem micrometreImage_eq (valueUm : I32) :
    micrometreImage valueUm =
      if (hundredthsRun (abs32 valueUm / 10)).rest > 0 then Image.fill minusGlyph
      else if isNegative valueUm then
        if (hundredthsRun (abs32 valueUm / 10)).nextSlot < 6 then
          (hundredthsRun (abs32 valueUm / 10)).image.set (hundredthsRun (abs32 valueUm / 10)).nextSlot minusGlyph
        else (hundredthsRun (abs32 valueUm / 10)).image.set 5 minusGlyph
      else (hundredthsRun (abs32 valueUm / 10)).image := rfl

/-- The digits of a number, at least three places of them, are three places and the digits of its thousands. -/
theorem max_three_length_digits (h : Nat) :
    max 3 (Nat.digits 10 h).length = 3 + (Nat.digits 10 (h / 10 / 10 / 10)).length := by
  have hlength (n : Nat) :
      n = 0 ∧ (Nat.digits 10 n).length = 0 ∨ n ≠ 0 ∧ (Nat.digits 10 n).length = (Nat.digits 10 (n / 10)).length + 1 := by
    by_cases hn : n = 0
    · exact .inl ⟨hn, by simp [hn]⟩
    · exact .inr ⟨hn, length_digits_of_ne_zero hn⟩
  have h0 := hlength h
  have h1 := hlength (h / 10)
  have h2 := hlength (h / 10 / 10)
  have h3 := hlength (h / 10 / 10 / 10)
  omega

section hundredths
variable (h : Nat)

theorem hundredthsRun_rest : (hundredthsRun h).rest = h / 10 ^ 6 := by
  rw [hundredthsRun, writeDigits_rest]
  omega

theorem hundredthsRun_nextSlot : (hundredthsRun h).nextSlot = min 6 (max 3 (Nat.digits 10 h).length) := by
  rw [hundredthsRun, writeDigits_nextSlot, max_three_length_digits]
  omega

/-- The three slots always written. -/
theorem hundredths_lowSlots {i : Fin 6} (hi : i.val < 3) (img : Image) :
    (((img.set 0 (lowDigit h)).set 1 (lowDigit (h / 10))).set 2 (withPoint (lowDigit (h / 10 / 10)))).get i =
      hundredthsGlyph h i := by
  have htwo : h / 10 / 10 = h / 10 ^ 2 := Nat.div_div_eq_div_mul ..
  simp only [set_get, hundredthsGlyph, htwo]
  fin_cases i
  · simp
  · simp
  · rfl
  all_goals exact absurd hi (by decide)

theorem hundredthsRun_get (i : Fin 6) :
    (hundredthsRun h).image.get i =
      if i.val < max 3 (Nat.digits 10 h).length then hundredthsGlyph h i else blankGlyph := by
  have hi := i.isLt
  rw [hundredthsRun, writeDigits_get, max_three_length_digits]
  by_cases hlow : i.val < 3
  · rw [if_neg (by omega), if_pos (by omega), hundredths_lowSlots h hlow]
  · have hne : i ≠ 2 := fun heq => hlow (by simp [heq])
    have hpow : h / 10 / 10 / 10 / 10 ^ (i.val - 3) = h / 10 ^ i.val := by
      rw [Nat.div_div_eq_div_mul, Nat.div_div_eq_div_mul, Nat.div_div_eq_div_mul, ← Nat.pow_succ', ← Nat.pow_succ',
        ← Nat.pow_succ']
      congr 2
      omega
    have hblank (a b c : Byte) :
        ((((Image.fill blankGlyph).set 0 a).set 1 b).set 2 c).get i = blankGlyph := by
      rw [set_get, set_get, set_get, fill_get, if_neg (by omega), if_neg (by omega), if_neg (by omega)]
    rw [hundredthsGlyph, if_neg hne, hpow, hblank]
    congr 1
    simp only [eq_iff_iff]
    omega

end hundredths

/-- From 10 metres on every slot shows the minus (R74). -/
theorem micrometreImage_overflow {valueUm : I32} (h : 10000000 ≤ valueUm.toInt.natAbs) :
    micrometreImage valueUm = Image.fill minusGlyph := by
  rw [micrometreImage_eq, hundredthsRun_rest, if_pos]
  rw [abs32]
  omega

/-- Below, the hundredths, and the minus on the slot above them, or over the top one (R74). -/
theorem micrometreImage_get {valueUm : I32} (h : valueUm.toInt.natAbs < 10000000) (i : Fin 6) :
    (micrometreImage valueUm).get i =
      if valueUm.toInt < 0 ∧ i.val = min (max 3 (Nat.digits 10 (valueUm.toInt.natAbs / 10)).length) 5 then minusGlyph
      else if i.val < max 3 (Nat.digits 10 (valueUm.toInt.natAbs / 10)).length then
        hundredthsGlyph (valueUm.toInt.natAbs / 10) i
      else blankGlyph := by
  have hrest : ¬ valueUm.toInt.natAbs / 10 / 10 ^ 6 > 0 := by omega
  have hdigits := hundredthsRun_get (valueUm.toInt.natAbs / 10) i
  simp only [micrometreImage_eq, hundredthsRun_rest, hundredthsRun_nextSlot, isNegative_iff, abs32, if_neg hrest]
  generalize max 3 (Nat.digits 10 (valueUm.toInt.natAbs / 10)).length = count at *
  by_cases hneg : valueUm.toInt < 0
  · have hsign (img : Image) :
        (if min 6 count < 6 then img.set (min 6 count) minusGlyph else img.set 5 minusGlyph) =
          img.set (min count 5) minusGlyph := by
      split <;> congr 1 <;> omega
    rw [if_pos hneg, hsign, set_get, hdigits]
    simp only [hneg, true_and]
  · rw [if_neg hneg, hdigits, if_neg fun hminus : _ ∧ _ => hneg hminus.1]

/-- Settles O13. -/
theorem showUmImage : Obligations.ShowUmImage := by
  unfold Obligations.ShowUmImage
  refine ⟨fun w hw => decodeWord_of_opcField hw, fun value s => ⟨_, exec_showUm s value, fun h i => ?_, fun h i => ?_,
    rfl, rfl, rfl, rfl, rfl⟩⟩
  · rw [respond_display, compose_back, micrometreImage_overflow h, fill_get]
  · rw [lowDigit_getD_digits, lowDigit_getD_digits]
    exact micrometreImage_get h i

/-! ### Overflow (R81) -/

/-- With six digits or more SET_NUMBER shows the low six, whatever the sign. -/
theorem numberImage_get_of_six_digits {value : I32} (h : 100000 ≤ value.toInt.natAbs) (i : Fin 6) :
    (numberImage value).get i = lowDigit (value.toInt.natAbs / 10 ^ i.val % 10) := by
  have hcount : 5 < (Nat.digits 10 value.toInt.natAbs).length := (Nat.lt_digits_length_iff (by decide) _).mpr h
  have hi := i.isLt
  rw [numberImage_get (by omega), if_pos (by omega), lowDigit_mod_ten]

/-- With six digits of hundredths SHOW_UM puts the minus over the top one. -/
theorem micrometreImage_get_of_six_digits {valueUm : I32} (hlow : 1000000 ≤ valueUm.toInt.natAbs)
    (hhigh : valueUm.toInt.natAbs < 10000000) (i : Fin 6) :
    (micrometreImage valueUm).get i =
      if valueUm.toInt < 0 ∧ i = 5 then minusGlyph else hundredthsGlyph (valueUm.toInt.natAbs / 10) i := by
  have hcount : 5 < (Nat.digits 10 (valueUm.toInt.natAbs / 10)).length :=
    (Nat.lt_digits_length_iff (by decide) _).mpr (by omega)
  have hi := i.isLt
  have htop : i.val = min (max 3 (Nat.digits 10 (valueUm.toInt.natAbs / 10)).length) 5 ↔ i = 5 := by
    rw [min_eq_right (by omega), Fin.ext_iff]
    rfl
  rw [micrometreImage_get hhigh, if_pos (by omega : i.val < max 3 _)]
  simp only [htop]

/-- Settles O20. -/
theorem twoOverflowPolicies : Obligations.TwoOverflowPolicies := by
  unfold Obligations.TwoOverflowPolicies
  refine ⟨fun value s h => ⟨_, exec_setNumber s value, numberImage_get_of_six_digits (by omega)⟩,
    fun value s h => ⟨_, exec_showUm s value, fun i => ?_⟩,
    fun value s _ h => ⟨_, exec_setNumber s value, numberImage_get_of_six_digits h⟩,
    fun value s hneg hlow hhigh => ⟨_, _, exec_showUm s value, exec_showUm s _, ?_⟩⟩
  · rw [respond_display, compose_back, micrometreImage_overflow h, fill_get]
  · have hnegated : (0#32 - value).toInt = -value.toInt := toInt_zero_sub (by omega)
    have habs : (0#32 - value).toInt.natAbs = value.toInt.natAbs := by rw [hnegated, Int.natAbs_neg]
    have hpositive : ¬ (0#32 - value).toInt < 0 := by omega
    have hminus := micrometreImage_get_of_six_digits hlow hhigh
    have hplain := micrometreImage_get_of_six_digits (valueUm := 0#32 - value) (by omega) (by omega)
    simp only [hneg, hpositive, habs, true_and, false_and, if_false] at hminus hplain
    refine ⟨hminus 5, (hplain 5).trans ?_, fun i hi => ?_⟩
    · exact congrArg lowDigit (Nat.div_div_eq_div_mul ..)
    · rw [respond_display, compose_back, respond_display, compose_back, hminus, hplain, if_neg hi]

/-! ### SHOW_HEX (R75) -/

theorem lowDigit_getLsbD_seven (n : Nat) : (lowDigit n).getLsbD 7 = false := glyph_getLsbD_seven _

/-- Slot i shows nibble i. -/
theorem hexImage_get (b0 b1 b2 : Byte) (i : Fin 6) :
    (hexImage b0 b1 b2).get i = hexDigit (frameNibble (frame24 b0 b1 b2) i.val) := by
  fin_cases i <;> rfl

theorem hexDigit_eq (n : Nibble) : hexDigit n = if n.toNat < 10 then lowDigit n.toNat else Config.hexGlyph n.toNat := by
  have hdecimal : n.toNat ≤ 9 ↔ n.toNat < 10 := by omega
  simp only [hexDigit, hdecimal]

/-- Settles O14. -/
theorem showHexImage : Obligations.ShowHexImage := by
  unfold Obligations.ShowHexImage
  refine ⟨fun w hw => ?_, fun b0 b1 b2 s => ⟨_, exec_showHex s b0 b1 b2, fun i => ?_, fun i hi => ?_,
    rfl, rfl, rfl, rfl, rfl⟩⟩
  · obtain ⟨hlo, hmid, hhi⟩ := argBytes_argField w
    rw [decodeWord_of_opcField hw, ← hlo, ← hmid, ← hhi]
    rfl
  · rw [respond_display, compose_back, hexImage_get, hexDigit_eq]
    rfl
  · rw [respond_display, compose_back, hexImage_get, hexDigit_eq]
    have hdecimal : (frameNibble (frame24 b0 b1 b2) i.val).toNat < 10 := hi
    rw [if_pos hdecimal, lowDigit_getLsbD_seven]

/-! ### What a slot can show (R82) -/

/-- The tens of a field, a byte, are a digit or one of the open patterns (R50). -/
theorem tensDigit_contents (field : Byte) :
    (∃ d, tensDigit (field.toNat / 10) = digit d) ∨
      ∃ k, 10 ≤ k ∧ k ≤ 25 ∧ tensDigit (field.toNat / 10) = Config.tensGlyphExt k := by
  have hfield := field.isLt
  rw [tensDigit]
  split
  · exact .inl ⟨_, rfl⟩
  · exact .inr ⟨_, by omega, by omega, rfl⟩

theorem timeImage_contents (hours minutes seconds : Byte) (i : Fin 6) :
    if i = 4 ∨ i = 2 then ∃ d, (timeImage hours minutes seconds).get i = (digit d ||| 0x80#8)
    else if i = 0 then ∃ d, (timeImage hours minutes seconds).get i = digit d
    else (∃ d, (timeImage hours minutes seconds).get i = digit d) ∨
      ∃ k, 10 ≤ k ∧ k ≤ 25 ∧ (timeImage hours minutes seconds).get i = Config.tensGlyphExt k := by
  fin_cases i
  · exact ⟨_, rfl⟩
  · exact tensDigit_contents seconds
  · exact ⟨_, rfl⟩
  · exact tensDigit_contents minutes
  · exact ⟨_, rfl⟩
  · exact tensDigit_contents hours

theorem numberImage_contents (value : I32) (i : Fin 6) :
    (∃ d, (numberImage value).get i = digit d) ∨ (numberImage value).get i = minusGlyph ∨
      (numberImage value).get i = blankGlyph := by
  by_cases hzero : value.toInt = 0
  · rw [numberImage_get_zero hzero]
    split
    · exact .inl ⟨0, rfl⟩
    · exact .inr (.inr rfl)
  · rw [numberImage_get hzero]
    split
    · exact .inl ⟨_, rfl⟩
    split
    · exact .inr (.inl rfl)
    · exact .inr (.inr rfl)

theorem micrometreImage_contents {valueUm : I32} (h : valueUm.toInt.natAbs < 10000000) (i : Fin 6) :
    if i = 2 then ∃ d, (micrometreImage valueUm).get i = (digit d ||| 0x80#8)
    else (∃ d, (micrometreImage valueUm).get i = digit d) ∨ (micrometreImage valueUm).get i = minusGlyph ∨
      (micrometreImage valueUm).get i = blankGlyph := by
  rw [micrometreImage_get h, hundredthsGlyph]
  split
  next htwo =>
    have hpoint : i.val = 2 := congrArg Fin.val htwo
    rw [if_neg (by omega), if_pos (by omega)]
    exact ⟨_, rfl⟩
  split
  · exact .inr (.inl rfl)
  split
  · exact .inl ⟨_, rfl⟩
  · exact .inr (.inr rfl)

theorem hexImage_contents (b0 b1 b2 : Byte) (i : Fin 6) :
    (∃ d, (hexImage b0 b1 b2).get i = digit d) ∨
      ∃ k, 10 ≤ k ∧ k ≤ 15 ∧ (hexImage b0 b1 b2).get i = Config.hexGlyph k := by
  have hnibble := (frameNibble (frame24 b0 b1 b2) i.val).isLt
  rw [hexImage_get, hexDigit_eq]
  split
  · exact .inl ⟨_, rfl⟩
  · exact .inr ⟨_, by omega, by omega, rfl⟩

/-- Settles O21. -/
theorem slotContents : Obligations.SlotContents := by
  unfold Obligations.SlotContents
  refine ⟨fun value s t h => ?_, fun hours minutes seconds s t h => ?_, fun value s t h => ?_, fun b0 b1 b2 s t h => ?_⟩ <;>
    injection h with h <;> subst h
  · exact numberImage_contents value
  · exact timeImage_contents hours minutes seconds
  · by_cases hfits : value.toInt.natAbs < 10000000
    · exact .inr (micrometreImage_contents hfits)
    · rw [respond_display, compose_back, micrometreImage_overflow (Nat.le_of_not_lt hfits)]
      exact .inl (fill_get minusGlyph)
  · exact hexImage_contents b0 b1 b2

end Sys2Proof.Machine

/-! PROOFS. spec/30_encoding.md section 6: SHOW_MEASUREMENT (R58). -/

namespace Sys2Proof.Machine

/-- Byte k of CAP_RAW's response is byte k of the frame (R54). -/
theorem respByte_frameResp (f : Frame) {k : Nat} (hk : k < 3) : respByte (frameResp f) k = f.extractLsb' (8 * k) 8 := by
  apply BitVec.eq_of_getLsbD_eq
  intro i hi
  simp [respByte, frameResp, hi, show 8 * k + i < 64 by omega]

section showMeasurement
variable {s : State} {b0 b1 b2 : Byte} (hr : s.capture.frameReady = true) (hraw : s.capture.rawBytes = ⟨b0, b1, b2⟩)
include hr hraw

/-- The three bytes of a waiting frame, as CAP_RAW answers them (R45, R62). -/
theorem respByte_rawAnswer :
    respByte (frameResp s.rawAnswer) 0 = b0 ∧ respByte (frameResp s.rawAnswer) 1 = b1 ∧
      respByte (frameResp s.rawAnswer) 2 = b2 := by
  have hbytes := snapshot_frame24 b0 b1 b2
  rw [rawAnswer_of_ready s hr, hraw, respByte_frameResp _ (by decide), respByte_frameResp _ (by decide),
    respByte_frameResp _ (by decide)]
  exact ⟨congrArg RawBytes.b0 hbytes, congrArg RawBytes.b1 hbytes, congrArg RawBytes.b2 hbytes⟩

/-- Uninterrupted, SHOW_MEASUREMENT of a waiting frame frees the capture and shows what its DECODE answered (R58). -/
theorem pseudoRun_showMeasurement :
    pseudoRun .showMeasurement s =
      .next ((s.clearCapture.compose (micrometreImage (decodeFrame b0 b1 b2).relativeMicrometres)).respond 0#64) := by
  obtain ⟨h0, h1, h2⟩ := respByte_rawAnswer hr hraw
  obtain ⟨hrelative, -⟩ := measurementResp_fields (decodeFrame b0 b1 b2)
  rw [← hrelative, ← h0, ← h1, ← h2]
  rfl

end showMeasurement

/-- A magnitude has five digits at most. -/
theorem length_digits_magnitude (b0 b1 : Byte) : (Nat.digits 10 (b0.toNat + 256 * b1.toNat)).length ≤ 5 := by
  have h0 := b0.isLt
  have h1 := b1.isLt
  rw [Nat.digits_length_le_iff (by decide)]
  omega

/-- SHOW_UM of a decoded frame shows the magnitude, which is too small to overflow or to leave the minus without a slot
(R66, R74 f). -/
theorem micrometreImage_decodeFrame_get (b0 b1 b2 : Byte) (i : Fin 6) :
    (micrometreImage (decodeFrame b0 b1 b2).relativeMicrometres).get i =
      if i.val < max 3 (Nat.digits 10 (b0.toNat + 256 * b1.toNat)).length then
        hundredthsGlyph (b0.toNat + 256 * b1.toNat) i
      else if b2.getLsbD 4 = true ∧ b0.toNat + 256 * b1.toNat ≠ 0 ∧
          i.val = max 3 (Nat.digits 10 (b0.toNat + 256 * b1.toNat)).length then minusGlyph
      else blankGlyph := by
  obtain ⟨habs, hneg⟩ := decodeFrame_relative_sign_magnitude b0 b1 b2
  have hcount := length_digits_magnitude b0 b1
  have h0 := b0.isLt
  have h1 := b1.isLt
  rw [micrometreImage_get (by omega), habs, Nat.mul_div_cancel _ (by decide), min_eq_left (by omega)]
  simp only [hneg, and_assoc]
  exact ite_ite_comm _ _ _ _ fun hminus => hminus.2.2.not_lt

/-- Settles O56: the decoded value is ten times the magnitude, of which SHOW_UM drops the last digit. -/
theorem measurementIsShownInFull : Obligations.MeasurementIsShownInFull := by
  unfold Obligations.MeasurementIsShownInFull
  intro s hr
  refine ⟨_, pseudoRun_showMeasurement hr rfl, ⟨rfl, rfl, rfl⟩, rfl, rfl, rfl, ?_⟩
  rintro _ _ rfl rfl
  refine ⟨length_digits_magnitude _ _, fun i => ?_⟩
  rw [lowDigit_getD_digits, lowDigit_getD_digits]
  exact micrometreImage_decodeFrame_get _ _ _ i

end Sys2Proof.Machine
